-- ==== Sys2Proof/Word.lean ====
section
/-! DEFINITION. The word types of the machine (spec/00_scope.md R11, R13, R14): bytes, 16-bit bus and micro-words, 32-bit
MCU addresses, and the two levels a wire can have. -/

namespace Sys2Proof

/-- A byte of RAM, FLASH, a file or a name. -/
abbrev Byte := BitVec 8

/-- A 16-bit word: a bus word (R11), a micro-word, a command word, a CSR (R59). -/
abbrev Word16 := BitVec 16

/-- A 32-bit MCU address or captured address (R13). -/
abbrev Word32 := BitVec 32

/-- The electrical level of one wire. -/
inductive Level where
  | low | high
deriving DecidableEq, Repr, Inhabited

/-- The other level. -/
def Level.flip : Level → Level
  | .low => .high
  | .high => .low

/-- Bit i of a 16-bit word is `w[i]` with bit 0 the least significant (R14); `{hi, lo}` is concatenation with hi in the
high bits. -/
abbrev concat32 (hi lo : Word16) : Word32 := hi ++ lo

end Sys2Proof
end

