-- ==== Sys2Proof/Config.lean ====
section
/-! DEFINITION. What an implementation fixes and what the spec leaves free: the OPEN parameters of spec/00_scope.md R10, the
launch premises of spec/70_reset_and_hazards.md R375, the agents and their actions (R9), and the free values. Every free
value is an opaque constant without a body: nothing in Lean can evaluate it. -/

namespace Sys2Proof

/-- Which electrical level means "asserted" (CTRL_POLARITY) or "pressed" (BTN_POLARITY): R10, R142, R311. -/
inductive Polarity where
  | activeHigh | activeLow
deriving DecidableEq, Repr, Inhabited

/-- The level of an asserted line of this polarity (30_encoding.md R142). -/
def Polarity.asserted : Polarity → Level
  | .activeHigh => .high
  | .activeLow => .low

/-- The seventeen OPEN parameters of 00_scope.md R10, each under the spec's own name. SETTLE_CYCLES has its range 0..63 by its
type; every other constraint is `Params.wf`. -/
structure Params where
  settleCycles  : BitVec 6
  sector        : Nat
  page          : Nat
  filler        : Byte
  erased        : Byte
  flashSize     : Nat
  stageOff      : Nat
  ramWinBase    : Word32
  commImage     : List Byte
  fifoDepth     : Nat
  debounceTicks : Nat
  longTicks     : Nat
  netRetries    : Nat
  extAllowList  : List (List Byte)
  fnameMax      : Nat
  ctrlPolarity  : Polarity
  btnPolarity   : Polarity
deriving DecidableEq, Repr, Inhabited

/-- WINDOW_BYTES, the bytes the 16 bus-visible address bits reach (R11). -/
def windowBytes : Nat := 65536

/-- STAGE_SIZE, the size of the flash staging region (R12). -/
def stageSize : Nat := windowBytes

/-- A power of two. -/
def isPowerOfTwo (n : Nat) : Bool := n == 2 ^ n.log2

/-- Every parameter meets its constraint: the table of R10, the counter widths of 10_state.md R55 and FLASH_SIZE < 2^32 of
30_encoding.md R153. This is launch premise (1) of 70_reset_and_hazards.md R375. -/
def Params.wf (p : Params) : Bool :=
  isPowerOfTwo p.sector && isPowerOfTwo p.page && decide (2 ≤ p.page) && decide (p.page ≤ p.sector) &&
  decide (p.sector % p.page = 0) && decide (p.flashSize % p.sector = 0) && decide (p.stageOff % p.sector = 0) &&
  decide (p.stageOff + stageSize ≤ p.flashSize) && decide (p.flashSize < 2 ^ 32) &&
  decide (p.ramWinBase.toNat % windowBytes = 0) &&
  decide (1 ≤ p.commImage.length) && decide (p.commImage.length ≤ windowBytes) && decide (1 ≤ p.fifoDepth) &&
  decide (1 ≤ p.debounceTicks) && decide (p.debounceTicks ≤ 256) && decide (1 ≤ p.longTicks) &&
  decide (p.longTicks ≤ 65535) && decide (1 ≤ p.netRetries) && decide (1 ≤ p.fnameMax) &&
  p.extAllowList.all (fun e => e.all (fun b => decide (b.toNat < 128)))

/-- RAM_WIN_BASE[31:16], the word ARM loads into ADDR_HI (42_staging.md R228). -/
def Params.winHigh (p : Params) : Word16 := p.ramWinBase.extractLsb' 16 16

/-! ## Agents, actions and draws -/

/-- The three sequencers: BM0 and BM1 watch CS1_n and CS2_n, BR serves the bus (40_bus_monitor.md R160). -/
inductive Sequencer where
  | bm0 | bm1 | br
deriving DecidableEq, Repr, Inhabited

/-- The two slots the host can select, one a chip-select line (10_state.md R45). -/
inductive Slot where
  | slot1 | slot2
deriving DecidableEq, Repr, Inhabited

/-- One atomic action of one agent (00_scope.md R9): a step of an agent of the block, or an action of HOST (20_memory.md R100),
OPERATOR (44 R311), MENU (43 R273, 10 R66) or RESETGEN (70 R372). WriteCmd(w) is a write of w to CSR 0x3 (R63). -/
inductive Action where
  | seq (x : Sequencer)
  | lu | rl | fs | mc | db
  | hostAssert (k : Slot) (a : Word16)
  | hostSample
  | hostDeassert (k : Slot)
  | setButton (l : Level)
  | writeFname (name : List Byte)
  | readFname
  | writeCsr (n : BitVec 4) (w : Word16)
  | readCsr (n : BitVec 4)
  | deviceReset
deriving DecidableEq, Repr, Inhabited

/-- The environment's answers for one step (R16 `draw`): values under no law. Plain data, so a run can be written out. -/
structure Draw where
  /-- what AD[15:0] shows a capture when no valid address is presented (20_memory.md R102) -/
  pins     : Word16
  /-- what a HostSample returns when the block drives no valid data (20_memory.md R101) -/
  sample   : Word16
  /-- DOUT after a device reset (10_state.md R38) -/
  dout     : Word16
  /-- StPresent() (20_memory.md R95) -/
  present  : Bool
  /-- StOpen answers OK (20_memory.md R95) -/
  opens    : Bool
  /-- StRead answers OK (20_memory.md R95) -/
  reads    : Bool
  /-- NetConnect() answers OK (43_mode_controller.md R262) -/
  connects : Bool
  /-- FLASHDEV.verify() answers OK (42_staging.md R240) -/
  verifies : Bool
deriving DecidableEq, Repr, Inhabited

/-- One turn of the interleaving: which action comes next, and the environment's answers to it. -/
structure Turn where
  action : Action
  draw   : Draw
deriving DecidableEq, Repr, Inhabited

/-- A file of STORAGE: FILE(name) of 20_memory.md R95. -/
structure StoredFile where
  name  : List Byte
  bytes : List Byte
deriving DecidableEq, Repr, Inhabited

/-- The persistent settings store NV: the keys `mode` and `file` of 10_state.md R70, each a value or ABSENT. -/
structure Nv where
  mode : Option Byte
  file : Option (List Byte)
deriving DecidableEq, Repr, Inhabited

/-! ## Free values -/

/-- The parameters of the chip at hand (log 1). -/
opaque Config.params : Params

/-- Which turn comes next, with its draws, where State's queue names none (log 2). -/
opaque Config.freeTurn : Nat → Turn

/-- DOUT at State.reset: "a model treats it as any value" (10_state.md R38; log 4). -/
opaque Config.doutAtPowerOn : Word16

/-- The byte RAM holds at an address not written since the r-th device reset (10_state.md R56; log 5). -/
opaque Config.ramAtReset : Nat → Nat → Byte

/-- The byte FLASH holds at an offset at the first power-on (70_reset_and_hazards.md R375 (3); log 6). -/
opaque Config.flashAtPowerOn : Nat → Byte

/-- NV at the first power-on (70_reset_and_hazards.md R375 (3); log 7). -/
opaque Config.nvAtPowerOn : Nv

/-- FILE, the storage content (70_reset_and_hazards.md R375 (4); log 8). -/
opaque Config.storageFiles : List StoredFile

/-- The byte at an offset of a sector whose verify failed at the n-th step (42_staging.md R243; log 18). -/
opaque Config.failedSector : Nat → Nat → Byte

end Sys2Proof
end

