-- ==== Sys2Proof/Syntax.lean ====
section
/-! DEFINITION. The instructions: one constructor per row of spec/opcode_table.json, the four micro-words of
spec/30_encoding.md R131 to R136 and the three command words of R143. -/

namespace Sys2Proof

/-- The wait-conditions of R133 that have a meaning. -/
inductive Wait where
  | none | pinHigh | pinLow | sig | reply
deriving DecidableEq, Repr, Inhabited

/-- The pin-direction field of R134: keep DIR, make it IN, make it OUT. -/
inductive DirOp where
  | keep | input | output
deriving DecidableEq, Repr, Inhabited

/-- The four control-line levels of R141. -/
inductive CtrlLevel where
  | nrnw | nrw | rnw | rw
deriving DecidableEq, Repr, Inhabited

/-- The operand fields every micro-word has (R131): WAIT, DIR, CW, CTRL, HOLD. -/
structure MicroFields where
  wait : Wait
  dir  : DirOp
  cw   : Bool
  ctrl : CtrlLevel
  hold : BitVec 6
deriving DecidableEq, Repr, Inhabited

/-- The M bit of a LAUNCH (R143): 0 is DIRECT, 1 is DELAY. -/
inductive LaunchMode where
  | direct | delay
deriving DecidableEq, Repr, Inhabited

/-- The instructions of the opcode table. -/
inductive Instr where
  | step (f : MicroFields)
  | raise (f : MicroFields)
  | capture (f : MicroFields)
  | drive (f : MicroFields)
  | nop
  | launch (m : LaunchMode)
  | handoff
deriving DecidableEq, Repr, Inhabited

end Sys2Proof
end

