-- ==== Sys2Proof/WellFormed.lean ====
section
/-! DEFINITION. Which instructions are well-formed, and for which sequencer (spec/30_encoding.md R137, R138). -/

namespace Sys2Proof

/-- The CW and CTRL fields go together (R135, R138): with CW = 1 the level is not RW, with CW = 0 the field is 0b00. -/
def MicroFields.ctrlFieldOk (f : MicroFields) : Bool :=
  if f.cw then f.ctrl != .rw else f.ctrl == .nrnw

/-- The field part of a well-formed BM micro-word (R137): WAIT NONE, PIN_HIGH or PIN_LOW; DIR = KEEP; CW = 0; CTRL = 0b00. -/
def MicroFields.bmOk (f : MicroFields) : Bool :=
  (f.wait == .none || f.wait == .pinHigh || f.wait == .pinLow) && f.dir == .keep && !f.cw && f.ctrl == .nrnw

/-- The field part of a well-formed BR micro-word (R137): WAIT NONE, SIG or REPLY, and CW with CTRL as R135 says. -/
def MicroFields.brOk (f : MicroFields) : Bool :=
  (f.wait == .none || f.wait == .sig || f.wait == .reply) && f.ctrlFieldOk

/-- A well-formed BM word (R137): ACT is step or raise. -/
def Instr.bmWord : Instr → Bool
  | .step f => f.bmOk
  | .raise f => f.bmOk
  | .capture _ => false
  | .drive _ => false
  | .nop => false
  | .launch _ => false
  | .handoff => false

/-- A well-formed BR word (R137): ACT is step, capture or drive. -/
def Instr.brWord : Instr → Bool
  | .step f => f.brOk
  | .raise _ => false
  | .capture f => f.brOk
  | .drive f => f.brOk
  | .nop => false
  | .launch _ => false
  | .handoff => false

/-- The instruction is a well-formed micro-word of this sequencer. -/
def Instr.legalFor (x : Sequencer) (i : Instr) : Bool :=
  match x with
  | .bm0 => i.bmWord
  | .bm1 => i.bmWord
  | .br => i.brWord

/-- The instruction is a command of the CMD register (R143). -/
def Instr.isCommand : Instr → Bool
  | .step _ => false
  | .raise _ => false
  | .capture _ => false
  | .drive _ => false
  | .nop => true
  | .launch _ => true
  | .handoff => true

/-- Well-formed: a command, or a micro-word legal in some sequencer (R137, R143). -/
def Instr.wellFormed (i : Instr) : Bool := i.isCommand || i.bmWord || i.brWord

end Sys2Proof
end

