-- ==== Sys2Proof/Decode.lean ====
section
/-! DEFINITION. Decoding and encoding (spec/30_encoding.md). A sequencer decodes micro-words (R131 to R138), the CMD register
decodes command words (R143, R144); each is total on 16 bits and rejects by name. The encoder, the fixed micro-programs (R140,
40 R161, 41 R181) and the mode code (R145, R146) are here too. -/

namespace Sys2Proof

/-- Why a word is no instruction. -/
inductive DecodeError where
  /-- WAIT 0b101, 0b110 or 0b111 (R138) -/
  | reservedWait
  /-- DIR 0b11 (R138) -/
  | reservedDir
  /-- CW = 1 with CTRL 0b11, or CW = 0 with CTRL not 0b00 (R138) -/
  | reservedCtrl
  /-- not well-formed in the sequencer that holds it (R137, R138) -/
  | notForSequencer
  /-- an OP of 0x03..0xFF (R144) -/
  | reservedOp
  /-- M = 1 with an OP other than LAUNCH (R144) -/
  | strayM
  /-- a 1 in bits [15:9] of a command word (R144) -/
  | reservedBits
deriving DecidableEq, Repr, Inhabited

/-- The answer of a decoder. -/
inductive Decoded where
  | instr (i : Instr)
  | refused (why : DecodeError)
deriving DecidableEq, Repr, Inhabited

/-- The instruction, where there is one. -/
def Decoded.toOption : Decoded → Option Instr
  | .instr i => some i
  | .refused _ => none

/-! ## Micro-words -/

/-- R133. -/
def waitOfBits (b : BitVec 3) : Option Wait :=
  match b.toNat with
  | 0 => some .none
  | 1 => some .pinHigh
  | 2 => some .pinLow
  | 3 => some .sig
  | 4 => some .reply
  | _ => none

/-- R133. -/
def waitBits : Wait → BitVec 3
  | .none => 0b000
  | .pinHigh => 0b001
  | .pinLow => 0b010
  | .sig => 0b011
  | .reply => 0b100

/-- R134. -/
def dirOpOfBits (b : BitVec 2) : Option DirOp :=
  match b.toNat with
  | 0 => some .keep
  | 1 => some .input
  | 2 => some .output
  | _ => none

/-- R134. -/
def dirOpBits : DirOp → BitVec 2
  | .keep => 0b00
  | .input => 0b01
  | .output => 0b10

/-- R141: CTRL[1] is the READ line, CTRL[0] the WRITE line. -/
def ctrlOfBits (b : BitVec 2) : CtrlLevel :=
  match b.toNat with
  | 0 => .nrnw
  | 1 => .nrw
  | 2 => .rnw
  | _ => .rw

/-- R141. -/
def ctrlBits : CtrlLevel → BitVec 2
  | .nrnw => 0b00
  | .nrw => 0b01
  | .rnw => 0b10
  | .rw => 0b11

/-- The ACT field is the opcode (R136). -/
def instrOfAct (act : BitVec 2) (f : MicroFields) : Instr :=
  match act.toNat with
  | 0 => .step f
  | 1 => .raise f
  | 2 => .capture f
  | _ => .drive f

/-- A micro-word by its fields (R131 to R136), with the reserved encodings of R138 rejected by name. Whether the word is legal in
a given sequencer is `decodeFor`. -/
def decodeMicro (w : Word16) : Decoded :=
  match waitOfBits (w.extractLsb' 13 3) with
  | none => .refused .reservedWait
  | some wait =>
    match dirOpOfBits (w.extractLsb' 11 2) with
    | none => .refused .reservedDir
    | some dir =>
      let f : MicroFields := ⟨wait, dir, w.getLsbD 10, ctrlOfBits (w.extractLsb' 8 2), w.extractLsb' 0 6⟩
      if f.ctrlFieldOk then .instr (instrOfAct (w.extractLsb' 6 2) f) else .refused .reservedCtrl

/-- A word of the program of sequencer x: decoded by its fields and well-formed for x (R137, R138). -/
def decodeFor (x : Sequencer) (w : Word16) : Decoded :=
  match decodeMicro w with
  | .refused e => .refused e
  | .instr i => if i.legalFor x then .instr i else .refused .notForSequencer

/-! ## Command words -/

/-- A command word written to CMD (R143), in the order of checks of 43_mode_controller.md R274: bits [15:9], OP, M. -/
def decodeCommand (w : Word16) : Decoded :=
  if w.extractLsb' 9 7 != 0 then .refused .reservedBits
  else
    match (w.extractLsb' 0 8).toNat, w.getLsbD 8 with
    | 0, false => .instr .nop
    | 0, true => .refused .strayM
    | 1, false => .instr (.launch .direct)
    | 1, true => .instr (.launch .delay)
    | 2, false => .instr .handoff
    | 2, true => .refused .strayM
    | _, _ => .refused .reservedOp

/-! ## The table's view -/

/-- A 16-bit word of the opcode table, whichever kind of object it is. A word of a command row is that command, every other word
is a micro-word, and it must be well-formed for one of the sequencers (log 12: the two kinds overlap on the four command words;
no agent of the machine uses this function). -/
def decodeWord (w : Word16) : Decoded :=
  match decodeCommand w with
  | .instr i => .instr i
  | .refused _ =>
    match decodeMicro w with
    | .refused e => .refused e
    | .instr i => if i.wellFormed then .instr i else .refused .notForSequencer

/-- The instruction the decoder reads from the nbits of an opcode-table word. Every object is 16 bits (R130). -/
def decodeTableWord (nbits w : Nat) : Option Instr :=
  if nbits = 16 then (decodeWord (BitVec.ofNat 16 w)).toOption else none

/-! ## The encoder -/

/-- A micro-word from its ACT and its fields (R131). -/
def encodeMicro (act : BitVec 2) (f : MicroFields) : Word16 :=
  waitBits f.wait ++ dirOpBits f.dir ++ BitVec.ofBool f.cw ++ ctrlBits f.ctrl ++ act ++ f.hold

/-- The word of an instruction (R131, R136, R143). -/
def encode : Instr → Word16
  | .step f => encodeMicro 0b00 f
  | .raise f => encodeMicro 0b01 f
  | .capture f => encodeMicro 0b10 f
  | .drive f => encodeMicro 0b11 f
  | .nop => 0x0000
  | .launch .direct => 0x0001
  | .launch .delay => 0x0101
  | .handoff => 0x0002

/-! ## The fixed micro-programs -/

/-- BM_PROG (40_bus_monitor.md R161). -/
def bmProgram : List Word16 := [0x2000, 0x4000, 0x0040]

/-- BR_PROG with S = SETTLE_CYCLES in the HOLD fields (41_bus_responder.md R181, 30_encoding.md R140). -/
def brProgram (s : BitVec 6) : List Word16 :=
  [0x6000, 0x0C00, 0x0600 + s.setWidth 16, 0x0080, 0x1000, 0x85C0, 0x0000 + s.setWidth 16, 0x0C00]

/-! ## The mode code -/

/-- The three operating modes (00_scope.md R18, 60_exceptions.md R343). -/
inductive OpMode where
  | setup | direct | delay
deriving DecidableEq, Repr, Inhabited

/-- decode_mode (R145): SETUP is the fallback for ABSENT and for every code but 0x00 and 0x01. -/
def decodeMode : Option Byte → OpMode
  | none => .setup
  | some c => if c = 0x00 then .direct else if c = 0x01 then .delay else .setup

/-- encode_mode (R146). -/
def encodeMode : OpMode → Byte
  | .direct => 0x00
  | .delay => 0x01
  | .setup => 0xFF

/-- The mode code a LAUNCH records in PEND_MODE (43_mode_controller.md R276). -/
def launchCode : LaunchMode → Byte
  | .direct => 0x00
  | .delay => 0x01

end Sys2Proof
end

