-- ==== Sys2Proof/Machine/State.lean ====
section
/-! DEFINITION. The machine's state as plain data: every element of spec/10_state.md, grouped as that file groups them, the outside
world the machine reads (pins, button, storage), and the model's own scheduling fields. State.reset is R71's reset table. -/

namespace Sys2Proof.Machine

open Sys2Proof

/-- Bytes of a memory by address: strictly rising addresses, an unlisted address holds no value of this list (log 5, log 6). -/
abbrev Memory := List Host.Cell

/-- DIR, the direction of the AD group (R39). -/
inductive Direction where
  | input | output
deriving DecidableEq, Repr

/-- One Bus Monitor instance: BM[k].UPC and BM[k].HOLD (R34). -/
structure Monitor where
  upc  : BitVec 2
  hold : BitVec 6
deriving DecidableEq, Repr

/-- The registers and FIFOs of the bus engine (R31 to R42). -/
structure Bus where
  armed     : Bool
  addrHi    : Word16
  sig       : Bool
  bm0       : Monitor
  bm1       : Monitor
  brUpc     : BitVec 3
  brHold    : BitVec 6
  cap       : Word32
  dout      : Word16
  dir       : Direction
  ctrl      : CtrlLevel
  addrFifo  : List Word32
  replyFifo : List Word16
deriving DecidableEq, Repr

/-- RL_SRC (R46): the communication firmware or the flash staging region. -/
inductive Source where
  | comm | rom
deriving DecidableEq, Repr

/-- The RAM Loader's registers (R46). -/
structure Loader where
  busy : Bool
  src  : Source
  idx  : BitVec 17
  len  : BitVec 17
deriving DecidableEq, Repr

/-- FS_RESULT (R47). -/
inductive FsResult where
  | ok | storageError | alignmentError | flashProgramError | notEligible
deriving DecidableEq, Repr

/-- An open storage handle: it stands for the file opened, so that StLength and StRead answer for that file (log 8). -/
structure Handle where
  name : List Byte
deriving DecidableEq, Repr

/-- The Flash Stager's registers (R47). -/
structure Stager where
  busy   : Bool
  handle : Option Handle
  len    : BitVec 32
  pos    : BitVec 32
  off    : BitVec 32
  result : FsResult
deriving DecidableEq, Repr

/-- MC_STATE (R48): the 18 legal codes; every other code is outside the type (93_implementation_defined.md 3.8). -/
inductive McState where
  | boot | setupStage | setupInit | storageWait | setupLoop | launchCheck | launchRecord | launchFlash | launchPersist
  | handoffPersist | handedOff | delayWait | emuStage | emuWaitExit | exitPersist | factoryReset | resetReq | fatal
deriving DecidableEq, Repr

/-- The error codes LAST_ERROR can hold (60_exceptions.md R330). -/
inductive ErrorCode where
  | none | storageError | alignmentError | flashProgramError | busArmError | networkTimeout | storageMissing
  | flashWhileEmulating | fileNotEligible | commandRejected
deriving DecidableEq, Repr

/-- The Mode Controller's registers and output signals (R48 to R53). -/
structure ModeRegs where
  state          : McState
  mode           : OpMode
  lastError      : ErrorCode
  storageOk      : Bool
  netOk          : Bool
  resetRequested : Bool
  handoff        : Bool
  fatalF         : Bool
  pendFile       : List Byte
  pendMode       : Byte
deriving DecidableEq, Repr

/-- EVT (R55); 0b11 is never written. -/
inductive Event where
  | none | short | long
deriving DecidableEq, Repr

/-- The debouncer's registers (R55). -/
structure Button where
  stable : Bool
  cnt    : BitVec 8
  holdc  : BitVec 16
  evt    : Event
  lpEn   : Bool
deriving DecidableEq, Repr

/-- The FNAME port (R54) and the model's record of what MENU last read (log 20). -/
structure Menu where
  fname     : List Byte
  csrData   : Word16
  fnameData : List Byte
deriving DecidableEq, Repr

/-- One HostSample: its value, and whether the block answered or the value is a draw, "no response" (20_memory.md R101). -/
structure Sample where
  word     : Word16
  answered : Bool
deriving DecidableEq, Repr

/-- The wires the outside world drives and what HOST has sampled: CS1_n, CS2_n, the address presented on each slot (20_memory.md
R100), the button line (44 R311), and the sequence of HostSample values, newest first (70 R387). -/
structure Outside where
  cs1     : Level
  cs2     : Level
  addr1   : Word16
  addr2   : Word16
  button  : Level
  samples : List Sample
deriving DecidableEq, Repr

/-- Why a step faults. Safe: the model stops where the spec gives no byte to read. -/
inductive Fault where
  /-- RL read a flash offset at or beyond FLASH_SIZE (10_state.md R57: FLASH has FLASH_SIZE bytes). Safe: never with
  `Params.wf`, log 17. -/
  | flashOutOfRange
  /-- RL read a byte beyond the end of COMM_FW_IMAGE (42_staging.md R221, R223). Safe: never while RL_LEN is what RlInvoke set,
  log 17. -/
  | imageOutOfRange
deriving DecidableEq, Repr

/-- Why a step is refused. Each is a case the spec says a model refuses. -/
inductive Refusal where
  /-- an instruction that has no meaning yet. Safe. -/
  | notModelled (mnemonic : String)
  /-- a micro-word that is reserved, or not legal in the sequencer that runs it (30_encoding.md R138). Safe. -/
  | illFormedMicroWord
  /-- the sequencer's UPC is outside its program (10_state.md R34: "Value 3 is never reached"). Safe. -/
  | noMicroWord
  /-- MENU writes a name that is not 1..FNAME_MAX bytes long (10_state.md R66). Safe, log 16. -/
  | fnameLength
  /-- a flash primitive is called against its preconditions (20_memory.md R93). Safe, log 17. -/
  | flashPrecondition
deriving DecidableEq, Repr

/-- The whole machine. -/
structure State where
  /-- the parameters of R10, fixed for the machine (log 1) -/
  params     : Params
  /-- BM_PROG (R44) -/
  bmProg     : List Word16
  /-- BR_PROG (R44) -/
  brProg     : List Word16
  bus        : Bus
  rl         : Loader
  fs         : Stager
  mc         : ModeRegs
  menu       : Menu
  db         : Button
  /-- RAM (R56): bytes written since the last device reset -/
  ram        : Memory
  /-- FLASH (R57): bytes erased or programmed since the first power-on -/
  flash      : Memory
  /-- offsets of the flash sectors erased since their last program (20_memory.md R93) -/
  flashBlank : List Nat
  nv         : Nv
  /-- FILE (20_memory.md R95) -/
  storage    : List StoredFile
  out        : Outside
  /-- the model's own: the turns to take next, then free turns (log 2) -/
  turns      : List Turn
  /-- the model's own: how many steps so far, the argument of the free values (log 2) -/
  steps      : Nat
  /-- the model's own: the environment's answers for the current step (log 3) -/
  draw       : Draw
  /-- the model's own: how many device resets so far (log 5) -/
  resets     : Nat
  /-- the model's own: the sequencer whose micro-word is executed (log 11) -/
  active     : Sequencer
deriving DecidableEq, Repr

/-- The answer of a step. -/
abbrev Result := Host.Outcome State Fault Refusal

/-- Draws of zeros: the content of `draw` before the first step (log 3). -/
def Draw.zero : Draw := ⟨0, 0, 0, false, false, false, false, false⟩

/-- The machine right after the first reset of a chip with parameters p, DOUT d, persistent settings nv and storage content
files: the reset table of 10_state.md R71. The launch premises are the arguments (70_reset_and_hazards.md R375). -/
def State.launch (p : Params) (d : Word16) (nv : Nv) (files : List StoredFile) : State where
  params := p
  bmProg := bmProgram
  brProg := brProgram p.settleCycles
  bus :=
    { armed := false, addrHi := 0, sig := false, bm0 := ⟨0, 0⟩, bm1 := ⟨0, 0⟩, brUpc := 0, brHold := 0, cap := 0,
      dout := d, dir := .input, ctrl := .nrnw, addrFifo := [], replyFifo := [] }
  rl := { busy := false, src := .comm, idx := 0, len := 0 }
  fs := { busy := false, handle := none, len := 0, pos := 0, off := 0, result := .ok }
  mc :=
    { state := .boot, mode := .setup, lastError := .none, storageOk := false, netOk := false, resetRequested := false,
      handoff := false, fatalF := false, pendFile := [], pendMode := 0 }
  menu := { fname := [], csrData := 0, fnameData := [] }
  db := { stable := false, cnt := 0, holdc := 0, evt := .none, lpEn := false }
  ram := []
  flash := []
  flashBlank := []
  nv := nv
  storage := files
  out := { cs1 := .high, cs2 := .high, addr1 := 0, addr2 := 0, button := .low, samples := [] }
  turns := []
  steps := 0
  draw := Draw.zero
  resets := 0
  active := .bm0

/-- The machine right after reset (10_state.md R71, 70_reset_and_hazards.md R371), with the free launch premises of the chip at
hand. -/
def State.reset : State :=
  State.launch Config.params Config.doutAtPowerOn Config.nvAtPowerOn Config.storageFiles

end Sys2Proof.Machine
end

