-- ==== Sys2Proof/Machine/Ops.lean ====
section
/-! DEFINITION. The named operations over the machine's state: memory, FIFOs, the flash device, the settings store, the sequencer
registers, entering a Mode Controller state (spec/43_mode_controller.md R263), and the error operations of
spec/60_exceptions.md: recording an error (R336) and Fatal(code), the one shared "exception entry" (R333). Leaving FATAL is a
device reset (R299), in Machine/Reset.lean. -/

namespace Sys2Proof.Machine

open Sys2Proof

/-! ## Memory -/

/-- The byte a list holds at address a, where it holds one. -/
def Memory.read : Memory → Nat → Option Byte
  | [], _ => none
  | (b, v) :: m, a => if a = b then some v else Memory.read m a

/-- The list with byte v at address a, in canonical form if it was. -/
def Memory.write : Memory → Nat → Byte → Memory
  | [], a, v => [(a, v)]
  | (b, w) :: m, a, v =>
    if a < b then (a, v) :: (b, w) :: m
    else if a = b then (a, v) :: m
    else (b, w) :: Memory.write m a v

/-- Writes the bytes one after the other from address a on. -/
def Memory.writeBytes : Memory → Nat → List Byte → Memory
  | m, _, [] => m
  | m, a, v :: vs => Memory.writeBytes (Memory.write m a v) (a + 1) vs

/-- Every address of the list is above a, and the addresses rise strictly. -/
def Memory.wfAbove : Nat → Memory → Bool
  | _, [] => true
  | a, (b, _) :: m => decide (a < b) && Memory.wfAbove b m

/-- The canonical form: addresses strictly rising. (An unlisted address holds no value of the list, so no listed value can equal
what an unlisted address reads as.) -/
def Memory.wf : Memory → Bool
  | [] => true
  | (b, _) :: m => Memory.wfAbove b m

/-- MemRead(RAM, a, 1) (20_memory.md R92). A byte not written since the last device reset is a free value (10_state.md R56). -/
def ramByte (s : State) (a : Nat) : Byte := (Memory.read s.ram a).getD (Config.ramAtReset s.resets a)

/-- RamRead16(a) = {RAM[a+1], RAM[a]} (20_memory.md R92). -/
def ramRead16 (s : State) (a : Word32) : Word16 := ramByte s (a + 1).toNat ++ ramByte s a.toNat

/-- MemWrite(RAM, a, 1, v) (20_memory.md R92). -/
def ramWrite (a : Word32) (v : Byte) (s : State) : State := { s with ram := Memory.write s.ram a.toNat v }

/-- MemRead(FLASH, o, 1) (20_memory.md R93). A byte not erased or programmed since the first power-on is a free value. -/
def flashByte (s : State) (o : Nat) : Byte := (Memory.read s.flash o).getD (Config.flashAtPowerOn o)

/-! ## The flash device (20_memory.md R93) -/

/-- FlashErase(o): needs o to be a multiple of SECTOR, in a sector FLASH has; every byte of [o, o + SECTOR) becomes ERASED. None
where the precondition fails. -/
def flashErase (o : Nat) (s : State) : Option State :=
  if o % s.params.sector = 0 ∧ o + s.params.sector ≤ s.params.flashSize then
    some { s with
      flash := Memory.writeBytes s.flash o (List.replicate s.params.sector s.params.erased)
      flashBlank := if o ∈ s.flashBlank then s.flashBlank else o :: s.flashBlank }
  else none

/-- The offset of the sector that holds offset o. -/
def sectorOf (p : Params) (o : Nat) : Nat := o / p.sector * p.sector

/-- FlashProgram(o, bytes): needs o to be a multiple of PAGE, the length a non-zero multiple of PAGE, and [o, o + length) inside one
sector erased since its last program. None where a precondition fails. -/
def flashProgram (o : Nat) (bytes : List Byte) (s : State) : Option State :=
  if o % s.params.page = 0 ∧ bytes ≠ [] ∧ bytes.length % s.params.page = 0 ∧
      o + bytes.length ≤ sectorOf s.params o + s.params.sector ∧ sectorOf s.params o ∈ s.flashBlank then
    some { s with
      flash := Memory.writeBytes s.flash o bytes
      flashBlank := s.flashBlank.filter (fun b => b != sectorOf s.params o) }
  else none

/-- The sector at o holds any value after a failed verify (42_staging.md R243): free bytes of the current step. -/
def flashSpoil (o : Nat) (s : State) : State :=
  { s with flash := Memory.writeBytes s.flash o ((List.range s.params.sector).map (fun i => Config.failedSector s.steps (o + i))) }

/-! ## FIFOs (20_memory.md R96) -/

/-- Full(F): F holds FIFO_DEPTH entries. -/
def fifoFull {α : Type} (s : State) (q : List α) : Bool := decide (s.params.fifoDepth ≤ q.length)

/-- Push(ADDR_FIFO, v). -/
def pushAddr (v : Word32) (s : State) : State := { s with bus := { s.bus with addrFifo := s.bus.addrFifo ++ [v] } }

/-- Pop(ADDR_FIFO), the oldest entry removed. -/
def popAddr (s : State) : State := { s with bus := { s.bus with addrFifo := s.bus.addrFifo.tail } }

/-- Push(REPLY_FIFO, v). -/
def pushReply (v : Word16) (s : State) : State := { s with bus := { s.bus with replyFifo := s.bus.replyFifo ++ [v] } }

/-- Pop(REPLY_FIFO), the oldest entry removed. -/
def popReply (s : State) : State := { s with bus := { s.bus with replyFifo := s.bus.replyFifo.tail } }

/-! ## The settings store (20_memory.md R94): each operation succeeds -/

/-- NvSet(mode, c). -/
def nvSetMode (c : Byte) (s : State) : State := { s with nv := { s.nv with mode := some c } }

/-- NvSet(file, name). -/
def nvSetFile (name : List Byte) (s : State) : State := { s with nv := { s.nv with file := some name } }

/-- NvErase(mode). -/
def nvEraseMode (s : State) : State := { s with nv := { s.nv with mode := none } }

/-- NvErase(file). -/
def nvEraseFile (s : State) : State := { s with nv := { s.nv with file := none } }

/-! ## Sequencer registers (10_state.md R34 to R36) -/

/-- PROG_X (10_state.md R44). -/
def progOf (x : Sequencer) (s : State) : List Word16 :=
  match x with
  | .bm0 => s.bmProg
  | .bm1 => s.bmProg
  | .br => s.brProg

/-- X.UPC. -/
def upcOf (x : Sequencer) (s : State) : Nat :=
  match x with
  | .bm0 => s.bus.bm0.upc.toNat
  | .bm1 => s.bus.bm1.upc.toNat
  | .br => s.bus.brUpc.toNat

/-- X.HOLD. -/
def holdOf (x : Sequencer) (s : State) : BitVec 6 :=
  match x with
  | .bm0 => s.bus.bm0.hold
  | .bm1 => s.bus.bm1.hold
  | .br => s.bus.brHold

/-- X.UPC <- n. -/
def setUpc (x : Sequencer) (n : Nat) (s : State) : State :=
  match x with
  | .bm0 => { s with bus := { s.bus with bm0 := { s.bus.bm0 with upc := BitVec.ofNat 2 n } } }
  | .bm1 => { s with bus := { s.bus with bm1 := { s.bus.bm1 with upc := BitVec.ofNat 2 n } } }
  | .br => { s with bus := { s.bus with brUpc := BitVec.ofNat 3 n } }

/-- X.HOLD <- h. -/
def setHold (x : Sequencer) (h : BitVec 6) (s : State) : State :=
  match x with
  | .bm0 => { s with bus := { s.bus with bm0 := { s.bus.bm0 with hold := h } } }
  | .bm1 => { s with bus := { s.bus with bm1 := { s.bus.bm1 with hold := h } } }
  | .br => { s with bus := { s.bus with brHold := h } }

/-- next(u) = (u + 1) mod len(PROG_X) (40_bus_monitor.md R160). -/
def nextUpc (x : Sequencer) (s : State) : Nat := (upcOf x s + 1) % (progOf x s).length

/-- SIG <- 1 (40_bus_monitor.md R166). -/
def raiseSig (s : State) : State := { s with bus := { s.bus with sig := true } }

/-- SIG <- 0 (40_bus_monitor.md R160). -/
def clearSig (s : State) : State := { s with bus := { s.bus with sig := false } }

/-! ## Errors (60_exceptions.md) -/

/-- LAST_ERROR <- code (R336): the later error overwrites the earlier one. -/
def recordError (e : ErrorCode) (s : State) : State := { s with mc := { s.mc with lastError := e } }

/-- Fatal(code) (R333): LAST_ERROR, FATAL_F, MC_STATE, LP_EN, RL_BUSY, FS_BUSY, and nothing else. -/
def fatal (e : ErrorCode) (s : State) : State :=
  { s with
    mc := { s.mc with lastError := e, fatalF := true, state := .fatal }
    db := { s.db with lpEn := false }
    rl := { s.rl with busy := false }
    fs := { s.fs with busy := false } }

/-! ## Mode Controller states (43_mode_controller.md R263) -/

/-- The wait states: STORAGE_WAIT, DELAY_WAIT, EMU_WAIT_EXIT. -/
def McState.isWait : McState → Bool
  | .storageWait => true
  | .delayWait => true
  | .emuWaitExit => true
  | .boot | .setupStage | .setupInit | .setupLoop | .launchCheck | .launchRecord | .launchFlash | .launchPersist
  | .handoffPersist | .handedOff | .emuStage | .exitPersist | .factoryReset | .resetReq | .fatal => false

/-- The states in which a command is ignored (R274): HANDED_OFF, RESET_REQ, FATAL. -/
def McState.isTerminal : McState → Bool
  | .handedOff => true
  | .resetReq => true
  | .fatal => true
  | .boot | .setupStage | .setupInit | .storageWait | .setupLoop | .launchCheck | .launchRecord | .launchFlash
  | .launchPersist | .handoffPersist | .delayWait | .emuStage | .emuWaitExit | .exitPersist | .factoryReset => false

/-- The emulation states 0x10..0x13 (42_staging.md R233). -/
def McState.isEmulation : McState → Bool
  | .delayWait => true
  | .emuStage => true
  | .emuWaitExit => true
  | .exitPersist => true
  | .boot | .setupStage | .setupInit | .storageWait | .setupLoop | .launchCheck | .launchRecord | .launchFlash
  | .launchPersist | .handoffPersist | .handedOff | .factoryReset | .resetReq | .fatal => false

/-- EVT <- e. -/
def setEvent (e : Event) (s : State) : State := { s with db := { s.db with evt := e } }

/-- Enter(t): MC_STATE <- t and the entry action of t (R263). -/
def enter (t : McState) (s : State) : State :=
  { s with
    mc := { s.mc with
      state := t
      resetRequested := s.mc.resetRequested || t == .resetReq
      handoff := s.mc.handoff || t == .handedOff
      fatalF := s.mc.fatalF || t == .fatal }
    db := { s.db with
      evt := if t.isWait then .none else s.db.evt
      lpEn := t.isWait } }

end Sys2Proof.Machine
end

