-- ==== Sys2Proof/Machine/Operands.lean ====
section
/-! DEFINITION. The operands of a micro-word (spec/30_encoding.md R139): the sequencer's chip-select line, SIG and the reply FIFO
as wait-conditions (R133), the pin-direction and control-line effects (R134, R135), the sampled address (20_memory.md R102),
and the pins the block shows (10_state.md R45, R142, R148). -/

namespace Sys2Proof.Machine

open Sys2Proof

/-- The level of the chip-select line of slot k. -/
def csOf (k : Slot) (s : State) : Level :=
  match k with
  | .slot1 => s.out.cs1
  | .slot2 => s.out.cs2

/-- CS(X)_n: CS1_n for BM0, CS2_n for BM1; the BR has no CS operand (40_bus_monitor.md R160). -/
def csLevel (x : Sequencer) (s : State) : Option Level :=
  match x with
  | .bm0 => some (csOf .slot1 s)
  | .bm1 => some (csOf .slot2 s)
  | .br => none

/-- The wait-condition of R133 holds, so the step can proceed. -/
def waitReady (x : Sequencer) (w : Wait) (s : State) : Bool :=
  match w with
  | .none => true
  | .pinHigh => csLevel x s == some .high
  | .pinLow => csLevel x s == some .low
  | .sig => s.bus.sig
  | .reply => !s.bus.replyFifo.isEmpty

/-- What proceeding past the wait-condition changes: WAIT = SIG clears SIG in the same step (R133). -/
def waitEffect (w : Wait) (s : State) : State :=
  match w with
  | .none => s
  | .pinHigh => s
  | .pinLow => s
  | .sig => clearSig s
  | .reply => s

/-- The DIR field acts on all 16 pins at once (R134). -/
def dirEffect (d : DirOp) (s : State) : State :=
  match d with
  | .keep => s
  | .input => { s with bus := { s.bus with dir := .input } }
  | .output => { s with bus := { s.bus with dir := .output } }

/-- With CW = 1 the step writes CTRL (R135). -/
def ctrlEffect (cw : Bool) (c : CtrlLevel) (s : State) : State :=
  if cw then { s with bus := { s.bus with ctrl := c } } else s

/-- The address the host presents while a chip-select is low (20_memory.md R100, R102). With both lines low and two different
addresses the spec states no value: none, and the sample is a draw (log 10). -/
def presentedAddr (s : State) : Option Word16 :=
  match s.out.cs1, s.out.cs2 with
  | .low, .high => some s.out.addr1
  | .high, .low => some s.out.addr2
  | .low, .low => if s.out.addr1 = s.out.addr2 then some s.out.addr1 else none
  | .high, .high => none

/-- What a capture samples from AD[15:0] (20_memory.md R102): the presented address while DIR = IN and CTRL = RNW, else a draw.
DIR and CTRL are read before the step's own writes (00_scope.md R15; log 21). -/
def sampleAd (s : State) : Word16 :=
  if s.bus.dir = .input ∧ s.bus.ctrl = .rnw then (presentedAddr s).getD s.draw.pins else s.draw.pins

/-- The captured address {ADDR_HI, AD[15:1], 0b0} (30_encoding.md R147). -/
def assembleAddr (hi pins : Word16) : Word32 := concat32 hi (pins &&& 0xFFFE)

/-- The value a capture writes to CAP in this state (41_bus_responder.md R188). -/
def capturedAddr (s : State) : Word32 := assembleAddr s.bus.addrHi (sampleAd s)

/-! ## The pins as the outside sees them -/

/-- AD[15:0]: DOUT bit for bit while DIR = OUT, high impedance (none) while DIR = IN (10_state.md R45, 30_encoding.md R148). -/
def adPins (s : State) : Option Word16 :=
  match s.bus.dir with
  | .output => some s.bus.dout
  | .input => none

/-- The electrical level of a line that is asserted when b holds (30_encoding.md R142). -/
def lineLevel (p : Polarity) (b : Bool) : Level := if b then p.asserted else p.asserted.flip

/-- The READ line, CTRL[1] (R141), at its electrical level. -/
def readLine (s : State) : Level := lineLevel s.params.ctrlPolarity ((ctrlBits s.bus.ctrl).getLsbD 1)

/-- The WRITE line, CTRL[0] (R141), at its electrical level. -/
def writeLine (s : State) : Level := lineLevel s.params.ctrlPolarity ((ctrlBits s.bus.ctrl).getLsbD 0)

end Sys2Proof.Machine
end

