-- ==== Sys2Proof/Machine/Flags.lean ====
section
/-! DEFINITION. The status views: the codes of MC_STATE (spec/10_state.md R48), LAST_ERROR (spec/60_exceptions.md R330) and
FS_RESULT (R331), the control and status registers (10_state.md R59 to R67), and the button's raw sample (44 R311). -/

namespace Sys2Proof.Machine

open Sys2Proof

/-- MC_STATE codes (R48). -/
def McState.code : McState → Byte
  | .boot => 0x00
  | .setupStage => 0x01
  | .setupInit => 0x02
  | .storageWait => 0x03
  | .setupLoop => 0x04
  | .launchCheck => 0x05
  | .launchRecord => 0x06
  | .launchFlash => 0x07
  | .launchPersist => 0x08
  | .handoffPersist => 0x09
  | .handedOff => 0x0A
  | .delayWait => 0x10
  | .emuStage => 0x11
  | .emuWaitExit => 0x12
  | .exitPersist => 0x13
  | .factoryReset => 0x20
  | .resetReq => 0x21
  | .fatal => 0x3F

/-- LAST_ERROR codes (60_exceptions.md R330). -/
def ErrorCode.code : ErrorCode → Byte
  | .none => 0x00
  | .storageError => 0x01
  | .alignmentError => 0x02
  | .flashProgramError => 0x03
  | .busArmError => 0x04
  | .networkTimeout => 0x05
  | .storageMissing => 0x06
  | .flashWhileEmulating => 0x07
  | .fileNotEligible => 0x08
  | .commandRejected => 0x09

/-- The error code of a Flash Stager result; OK has none, LAST_ERROR is then unchanged (60_exceptions.md R331). -/
def FsResult.error : FsResult → Option ErrorCode
  | .ok => none
  | .storageError => some .storageError
  | .alignmentError => some .alignmentError
  | .flashProgramError => some .flashProgramError
  | .notEligible => some .fileNotEligible

/-- EVT codes (R55). -/
def Event.code : Event → BitVec 2
  | .none => 0b00
  | .short => 0b01
  | .long => 0b10

/-- RESULT.BUSY (R64): a launch or a handoff is running. -/
def McState.isBusy : McState → Bool
  | .launchCheck => true
  | .launchRecord => true
  | .launchFlash => true
  | .launchPersist => true
  | .handoffPersist => true
  | .boot | .setupStage | .setupInit | .storageWait | .setupLoop | .handedOff | .delayWait | .emuStage | .emuWaitExit
  | .exitPersist | .factoryReset | .resetReq | .fatal => false

/-- STATUS, CSR 0x0 (R60). -/
def statusWord (s : State) : Word16 :=
  s.mc.state.code ++ BitVec.ofBool (s.fs.busy || s.rl.busy) ++ BitVec.ofBool s.mc.handoff ++ BitVec.ofBool s.mc.fatalF ++
    BitVec.ofBool s.mc.resetRequested ++ BitVec.ofBool s.mc.storageOk ++ BitVec.ofBool s.mc.netOk ++
    BitVec.ofBool s.bus.sig ++ BitVec.ofBool s.bus.armed

/-- MODE, CSR 0x1 (R61). -/
def modeWord (s : State) : Word16 := (encodeMode s.mc.mode).setWidth 16

/-- RESULT, CSR 0x4 (R64). -/
def resultWord (s : State) : Word16 := (BitVec.ofBool s.mc.state.isBusy ++ s.mc.lastError.code).setWidth 16

/-- BUTTON, CSR 0x5 (R65). -/
def buttonWord (s : State) : Word16 := (BitVec.ofBool s.db.lpEn ++ s.db.evt.code ++ BitVec.ofBool s.db.stable).setWidth 16

/-- What a read of CSR n returns: the view of R59 to R65; CMD (R63) and the reserved CSRs 0x6..0xF (R67) read 0x0000. -/
def csrValue (n : BitVec 4) (s : State) : Word16 :=
  match n.toNat with
  | 0 => statusWord s
  | 1 => modeWord s
  | 2 => s.bus.addrHi
  | 4 => resultWord s
  | 5 => buttonWord s
  | _ => 0x0000

/-- The debouncer's raw sample: 1 when the line is at BTN_POLARITY's pressed level (44_button_debouncer.md R311). -/
def rawButton (s : State) : Bool := s.out.button == s.params.btnPolarity.asserted

end Sys2Proof.Machine
end

