-- ==== Sys2Proof/Machine/Debouncer.lean ====
section
/-! DEFINITION. The debouncer (spec/44_button_debouncer.md R310 to R323). -/

namespace Sys2Proof.Machine

open Sys2Proof

/-- sat(x) = min(x, LONG_TICKS) (R312). -/
def saturate (p : Params) (x : Nat) : Nat := min x p.longTicks

/-- h of R312: the held ticks, counting this one while STABLE = 1. -/
def heldTicks (s : State) : Nat :=
  if s.db.stable then saturate s.params (s.db.holdc.toNat + 1) else s.db.holdc.toNat

/-- The event of a release after h held ticks (R315). -/
def classify (p : Params) (h : Nat) : Event := if h < p.longTicks then .short else .long

/-- DbTick (R312). -/
def dbTick (s : State) : State :=
  let r := rawButton s
  let h := heldTicks s
  if r = s.db.stable then
    { s with db := { s.db with cnt := 0, holdc := BitVec.ofNat 16 h } }
  else if s.db.cnt.toNat + 1 < s.params.debounceTicks then
    { s with db := { s.db with cnt := s.db.cnt + 1, holdc := BitVec.ofNat 16 h } }
  else if r then
    { s with db := { s.db with cnt := 0, stable := r, holdc := 0 } }
  else
    { s with db := { s.db with cnt := 0, stable := r, holdc := BitVec.ofNat 16 h, evt := classify s.params h } }

/-- The guard of `wait_for_press` (R320): an event is latched. -/
def pressSeen (s : State) : Bool := s.db.evt != .none

/-- The guard of `wait_for_release` (R321): STABLE = 0. No state of the MC uses it. -/
def releaseSeen (s : State) : Bool := !s.db.stable

end Sys2Proof.Machine
end

