-- ==== Sys2Proof/Machine/Micro.lean ====
section
/-! DEFINITION. The common micro-step of a sequencer (spec/40_bus_monitor.md R160), and the instruction `step` (R164), which is
that and nothing more. -/

namespace Sys2Proof.Machine

open Sys2Proof

/-- One hold cycle (R160): HOLD counts down, and the UPC advances when it reaches 0. -/
def holdCycle (x : Sequencer) (s : State) : State :=
  if holdOf x s - 1 = 0 then setUpc x (nextUpc x s) (setHold x (holdOf x s - 1) s)
  else setHold x (holdOf x s - 1) s

/-- The end of a step (R160): with HOLD = 0 the UPC advances at once, else the hold starts. -/
def advance (x : Sequencer) (hold : BitVec 6) (s : State) : State :=
  if hold = 0 then setUpc x (nextUpc x s) s else setHold x hold s

/-- SeqStep(X) with w the micro-word of fields f (R160). `ready` says that the action does not stall, `act` is the action: its first
argument is the state before the step, which it reads; its second the state it writes (R15: the effects of a step take effect
together). A stall changes nothing. -/
def microStep (x : Sequencer) (f : MicroFields) (ready : State → Bool) (act : State → State → State) (s : State) : State :=
  if !s.bus.armed then s
  else if holdOf x s ≠ 0 then holdCycle x s
  else if waitReady x f.wait s && ready s then
    advance x f.hold (act s (ctrlEffect f.cw f.ctrl (dirEffect f.dir (waitEffect f.wait s))))
  else s

/-- A step of the active sequencer with the micro-word i: i must be well-formed for it (30_encoding.md R138: the model refuses a
reserved or illegal word). -/
def runMicro (i : Instr) (f : MicroFields) (ready : State → Bool) (act : State → State → State) (s : State) : Result :=
  if i.legalFor s.active then .next (microStep s.active f ready act s) else .refused .illFormedMicroWord

/-- Instruction `step` (R164): no action beyond the WAIT, DIR, CTRL and HOLD effects. -/
def execStep (f : MicroFields) (s : State) : Result :=
  runMicro (.step f) f (fun _ => true) (fun _ t => t) s

end Sys2Proof.Machine
end

