-- ==== Sys2Proof/Machine/BusMonitor.lean ====
section
/-! DEFINITION. The Bus Monitor's instruction `raise` (spec/40_bus_monitor.md R166). -/

namespace Sys2Proof.Machine

open Sys2Proof

/-- Instruction `raise` (R166): SIG <- 1. It never stalls by itself; a raise while SIG = 1 leaves SIG = 1. -/
def execRaise (f : MicroFields) (s : State) : Result :=
  runMicro (.raise f) f (fun _ => true) (fun _ t => raiseSig t) s

end Sys2Proof.Machine
end

