-- ==== Sys2Proof/Machine/BusResponder.lean ====
section
/-! DEFINITION. The Bus Responder's instructions `capture` (spec/41_bus_responder.md R188) and `drive` (R192). -/

namespace Sys2Proof.Machine

open Sys2Proof

/-- The action of `capture` (R188): CAP <- c and Push(ADDR_FIFO, c). -/
def captureAction (c : Word32) (t : State) : State :=
  pushAddr c { t with bus := { t.bus with cap := c } }

/-- Instruction `capture` (R188): it stalls while ADDR_FIFO is full. -/
def execCapture (f : MicroFields) (s : State) : Result :=
  runMicro (.capture f) f (fun s => !fifoFull s s.bus.addrFifo) (fun s t => captureAction (capturedAddr s) t) s

/-- The action of `drive` (R192): DOUT <- Pop(REPLY_FIFO), the word taken whole. -/
def driveAction (w : Word16) (t : State) : State :=
  popReply { t with bus := { t.bus with dout := w } }

/-- Instruction `drive` (R192): it stalls while REPLY_FIFO is empty. -/
def execDrive (f : MicroFields) (s : State) : Result :=
  runMicro (.drive f) f (fun s => !s.bus.replyFifo.isEmpty) (fun s t => driveAction (s.bus.replyFifo.headD s.bus.dout) t) s

end Sys2Proof.Machine
end

