-- ==== Sys2Proof/Machine/Commands.lean ====
section
/-! DEFINITION. The commands MENU writes to CMD: `nop`, `launch`, `handoff`, and the rejection of a reserved word
(spec/43_mode_controller.md R274 to R277). -/

namespace Sys2Proof.Machine

open Sys2Proof

/-- CommandRejected (R274): LAST_ERROR <- 0x09 and nothing else; in HANDED_OFF, RESET_REQ and FATAL the write is ignored. -/
def rejectCommand (s : State) : State :=
  if s.mc.state.isTerminal then s else recordError .commandRejected s

/-- A command with an effect (R274): ignored in a terminal state, rejected outside SETUP_LOOP, else LAST_ERROR <- 0x00 and the
effect. -/
def acceptCommand (effect : State → State) (s : State) : State :=
  if s.mc.state = .setupLoop then effect (recordError .none s) else rejectCommand s

/-- Command `nop` (R275): no effect in any state. -/
def execNop (s : State) : Result := .next s

/-- Command `launch` (R276): PEND_FILE <- FNAME, PEND_MODE <- the mode's code, Enter(LAUNCH_CHECK). -/
def execLaunch (m : LaunchMode) (s : State) : Result :=
  .next (acceptCommand
    (fun t => enter .launchCheck { t with mc := { t.mc with pendFile := t.menu.fname, pendMode := launchCode m } }) s)

/-- Command `handoff` (R277): Enter(HANDOFF_PERSIST). -/
def execHandoff (s : State) : Result := .next (acceptCommand (enter .handoffPersist) s)

end Sys2Proof.Machine
end

