-- ==== Sys2Proof/Machine/Dispatch.lean ====
section
/-! DEFINITION. exec: one arm per instruction of the opcode table, each one direct call of its meaning. -/

namespace Sys2Proof.Machine

open Sys2Proof

def exec (i : Instr) (s : State) : Host.Outcome State Fault Refusal :=
  match i with
  | .step f => Sys2Proof.Machine.execStep f s
  | .raise f => Sys2Proof.Machine.execRaise f s
  | .capture f => Sys2Proof.Machine.execCapture f s
  | .drive f => Sys2Proof.Machine.execDrive f s
  | .nop => Sys2Proof.Machine.execNop s
  | .launch m => Sys2Proof.Machine.execLaunch m s
  | .handoff => Sys2Proof.Machine.execHandoff s

end Sys2Proof.Machine
end

