-- ==== Sys2Proof/Machine/HostBus.lean ====
section
/-! DEFINITION. The actions of HOST (spec/20_memory.md R100, R101), of OPERATOR (spec/44_button_debouncer.md R311), and MENU's
accesses that are no command (spec/10_state.md R59 to R67). -/

namespace Sys2Proof.Machine

open Sys2Proof

/-- Drives the chip-select line of slot k to a level. -/
def setCs (k : Slot) (l : Level) (s : State) : State :=
  match k with
  | .slot1 => { s with out := { s.out with cs1 := l } }
  | .slot2 => { s with out := { s.out with cs2 := l } }

/-- Presents address a on slot k. -/
def presentAddr (k : Slot) (a : Word16) (s : State) : State :=
  match k with
  | .slot1 => { s with out := { s.out with addr1 := a } }
  | .slot2 => { s with out := { s.out with addr2 := a } }

/-- HostAssert(k, A): enabled only while CSk_n is high (R100). -/
def hostAssert (k : Slot) (a : Word16) (s : State) : State :=
  if csOf k s = .high then presentAddr k a (setCs k .low s) else s

/-- HostDeassert(k): enabled only while CSk_n is low (R100). -/
def hostDeassert (k : Slot) (s : State) : State :=
  if csOf k s = .low then setCs k .high s else s

/-- The value of a HostSample (R101): DOUT when DIR = OUT and CTRL = NRW, else a draw recorded as "no response". -/
def hostSees (s : State) : Sample :=
  if s.bus.dir = .output ∧ s.bus.ctrl = .nrw then ⟨s.bus.dout, true⟩ else ⟨s.draw.sample, false⟩

/-- HostSample(): the value joins the observation of the run (70_reset_and_hazards.md R387). -/
def hostSample (s : State) : State := { s with out := { s.out with samples := hostSees s :: s.out.samples } }

/-- SetButton(level) (44 R311). -/
def setButton (l : Level) (s : State) : State := { s with out := { s.out with button := l } }

/-- WriteFname(name): a name of 1..FNAME_MAX bytes replaces FNAME; a longer one is refused (10_state.md R66; log 16). -/
def writeFname (name : List Byte) (s : State) : Result :=
  if 1 ≤ name.length ∧ name.length ≤ s.params.fnameMax then .next { s with menu := { s.menu with fname := name } }
  else .refused .fnameLength

/-- A read of the FNAME port returns its content (R66) and changes nothing of the block. -/
def readFname (s : State) : State := { s with menu := { s.menu with fnameData := s.menu.fname } }

/-- A read of CSR n returns its view and has no side effect (20_memory.md R109). -/
def readCsr (n : BitVec 4) (s : State) : State := { s with menu := { s.menu with csrData := csrValue n s } }

end Sys2Proof.Machine
end

