-- ==== Sys2Proof/Machine/Lookup.lean ====
section
/-! DEFINITION. The lookup unit (spec/41_bus_responder.md R196). -/

namespace Sys2Proof.Machine

open Sys2Proof

/-- LUStep (R196): pop a captured address, read the halfword there, push it; a stall changes nothing. -/
def luStep (s : State) : State :=
  if !s.bus.armed || fifoFull s s.bus.replyFifo then s
  else
    match s.bus.addrFifo with
    | [] => s
    | a :: _ => pushReply (ramRead16 s a) (popAddr s)

end Sys2Proof.Machine
end

