-- ==== Sys2Proof/Machine/Loader.lean ====
section
/-! DEFINITION. The RAM Loader: invocation, copy step and the ARM step (spec/42_staging.md R220 to R231). -/

namespace Sys2Proof.Machine

open Sys2Proof

/-- The number of bytes a load copies (R221): |COMM_FW_IMAGE|, or the whole staging region. -/
def loadLength (p : Params) : Source → Nat
  | .comm => p.commImage.length
  | .rom => stageSize

/-- RlInvoke(src) (R221): enabled only when RL_BUSY = 0. -/
def rlInvoke (src : Source) (s : State) : State :=
  if s.rl.busy then s
  else { s with rl := { busy := true, src := src, idx := 0, len := BitVec.ofNat 17 (loadLength s.params src) } }

/-- The source byte of index RL_IDX (R223): COMM_FW_IMAGE[RL_IDX], or FLASH at STAGE_OFF + RL_IDX. -/
def loadByte (s : State) (i : Nat) : Except Fault Byte :=
  match s.rl.src with
  | .comm =>
    match s.params.commImage[i]? with
    | some b => .ok b
    | none => .error .imageOutOfRange
  | .rom =>
    if s.params.stageOff + i < s.params.flashSize then .ok (flashByte s (s.params.stageOff + i))
    else .error .flashOutOfRange

/-- The RAM address a load writes byte i to: RAM_WIN_BASE + i (R223). -/
def loadAddr (s : State) (i : Nat) : Word32 := s.params.ramWinBase + BitVec.ofNat 32 i

/-- RlCopyStep (R223): one byte; with ARMED = 1 it is Fatal(0x04) and writes nothing (R222). -/
def rlCopyStep (s : State) : Result :=
  if s.bus.armed then .next (fatal .busArmError s)
  else
    match loadByte s s.rl.idx.toNat with
    | .error e => .fault e
    | .ok b =>
      .next { ramWrite (loadAddr s s.rl.idx.toNat) b s with rl := { s.rl with idx := s.rl.idx + 1 } }

/-- ArmStep (R228): with ARMED = 1 it is Fatal(0x04); else one atomic step arms the pair. DIR, CTRL, DOUT, CAP are not changed. -/
def armStep (s : State) : State :=
  if s.bus.armed then fatal .busArmError s
  else
    { s with
      bus := { s.bus with
        armed := true
        addrHi := s.params.winHigh
        sig := false
        bm0 := ⟨0, 0⟩
        bm1 := ⟨0, 0⟩
        brUpc := 0
        brHold := 0
        addrFifo := []
        replyFifo := [] }
      rl := { s.rl with busy := false } }

/-- The RL's step: a copy step while RL_IDX < RL_LEN (R223), the ARM step at RL_IDX = RL_LEN (R228), no step while RL_BUSY = 0. -/
def rlStep (s : State) : Result :=
  if !s.rl.busy then .next s
  else if s.rl.idx.toNat < s.rl.len.toNat then rlCopyStep s
  else if s.rl.idx = s.rl.len then .next (armStep s)
  else .next s

end Sys2Proof.Machine
end

