-- ==== Sys2Proof/Machine/Stager.lean ====
section
/-! DEFINITION. The Flash Stager: invocation, start step, chunk step (spec/42_staging.md R232 to R249), and the STORAGE primitives
it calls (spec/20_memory.md R95). -/

namespace Sys2Proof.Machine

open Sys2Proof

/-! ## STORAGE -/

/-- FILE(name): the bytes of the stored file of that name. -/
def lookupFile (name : List Byte) : List StoredFile → Option (List Byte)
  | [] => none
  | f :: fs => if f.name = name then some f.bytes else lookupFile name fs

/-- StOpen(name): OK(h) with the file's length, or ERR. The answer is the environment's draw; a name STORAGE does not hold is ERR
(log 8). -/
def stOpen (name : List Byte) (s : State) : Option (Handle × Nat) :=
  if s.draw.opens then (lookupFile name s.storage).map (fun bytes => (⟨name⟩, bytes.length)) else none

/-- StRead(h, pos, n): OK with FILE(name)[pos, pos + n), or ERR. -/
def stRead (h : Handle) (pos n : Nat) (s : State) : Option (List Byte) :=
  if s.draw.reads then (lookupFile h.name s.storage).map (fun bytes => (bytes.drop pos).take n) else none

/-! ## Buffers -/

/-- swap16 (R238): the bytes of every 16-bit word change places. -/
def swap16 : List Byte → List Byte
  | a :: b :: rest => b :: a :: swap16 rest
  | [a] => [a]
  | [] => []

/-- ceil(n / PAGE) * PAGE (R239, 30_encoding.md R154). -/
def paddedSize (p : Params) (n : Nat) : Nat := (n + p.page - 1) / p.page * p.page

/-- The chunk with FILLER up to the next page boundary (R239). -/
def padChunk (p : Params) (bytes : List Byte) : List Byte :=
  bytes ++ List.replicate (paddedSize p bytes.length - bytes.length) p.filler

/-! ## The requests -/

/-- FsInvoke(dest) (R233): enabled only when FS_BUSY = 0; in an emulation state it is Fatal(0x07). -/
def fsInvoke (dest : BitVec 32) (s : State) : State :=
  if s.fs.busy then s
  else if s.mc.state.isEmulation then fatal .flashWhileEmulating s
  else { s with fs := { busy := true, handle := none, len := 0, pos := 0, off := dest, result := .ok } }

/-- FsFinish(res) (R240). -/
def fsFinish (r : FsResult) (s : State) : State :=
  { s with fs := { s.fs with result := r, handle := none, busy := false } }

/-- FS_POS <- n. -/
def fsSetPos (n : Nat) (s : State) : State := { s with fs := { s.fs with pos := BitVec.ofNat 32 n } }

/-- The two length conditions of the header-skip predicate (R235): L > 4 and (L - 4) mod SECTOR = 0. -/
def headerLength (p : Params) (len : Nat) : Bool := decide (4 < len) && decide ((len - 4) % p.sector = 0)

/-- The size check (R237): a payload above STAGE_SIZE ends the request with NotEligible. -/
def fsSizeCheck (s : State) : State :=
  if stageSize < s.fs.len.toNat - s.fs.pos.toNat then fsFinish .notEligible s else s

/-- FS start step (R234 to R237): alignment, open, header skip, size check, in this order; the first failing check names the
result (60_exceptions.md R340). -/
def fsStartStep (s : State) : State :=
  if s.fs.off.toNat % s.params.sector ≠ 0 then fsFinish .alignmentError s
  else
    match stOpen s.mc.pendFile s with
    | none => fsFinish .storageError s
    | some (h, len) =>
      let t := { s with fs := { s.fs with handle := some h, len := BitVec.ofNat 32 len } }
      if headerLength s.params len then
        match stRead h 0 4 t with
        | none => fsFinish .storageError t
        | some header => fsSizeCheck (fsSetPos (if header.all (fun b => b == 0) then 4 else 0) t)
      else fsSizeCheck (fsSetPos 0 t)

/-- The chunk of n file bytes at FS_POS is programmed at FS_OFF (R240): erase, program, verify, advance by the unpadded length
(R242). A flash call against its preconditions is refused (20_memory.md R93). -/
def fsProgramChunk (n : Nat) (bytes : List Byte) (s : State) : Result :=
  match flashErase s.fs.off.toNat s with
  | none => .refused .flashPrecondition
  | some t =>
    match flashProgram s.fs.off.toNat (swap16 (padChunk s.params bytes)) t with
    | none => .refused .flashPrecondition
    | some u =>
      if s.draw.verifies then
        .next { u with fs := { u.fs with off := u.fs.off + BitVec.ofNat 32 n, pos := u.fs.pos + BitVec.ofNat 32 n } }
      else .next (fsFinish .flashProgramError (flashSpoil s.fs.off.toNat u))

/-- The size of the next chunk: min(SECTOR, FS_LEN - FS_POS) (R240, R241). DESIGN CHOICE (log 29): with SECTOR = 4 a 12-byte file whose header
is skipped has a payload of 8 bytes, which these rules cut into two chunks; R248 (d) counts three. The model follows R240 and R241. -/
def chunkSize (s : State) : Nat := min s.params.sector (s.fs.len.toNat - s.fs.pos.toNat)

/-- FsChunkStep (R240). -/
def fsChunkStep (h : Handle) (s : State) : Result :=
  if s.fs.pos = s.fs.len then .next (fsFinish .ok s)
  else
    match stRead h s.fs.pos.toNat (chunkSize s) s with
    | none => .next (fsFinish .storageError s)
    | some bytes => fsProgramChunk (chunkSize s) bytes s

/-- The FS's step: the start step while FS_H = NONE (R234), a chunk step otherwise (R240), no step while FS_BUSY = 0. -/
def fsStep (s : State) : Result :=
  if !s.fs.busy then .next s
  else
    match s.fs.handle with
    | none => .next (fsStartStep s)
    | some h => fsChunkStep h s

end Sys2Proof.Machine
end

