-- ==== Sys2Proof/Machine/ModeController.lean ====
section
/-! DEFINITION. The Mode Controller (spec/43_mode_controller.md R260 to R305): one definition per state of R265, and the step. -/

namespace Sys2Proof.Machine

open Sys2Proof

/-- BOOT (R266). -/
def mcBoot (s : State) : State :=
  let m := decodeMode s.nv.mode
  let t := { s with mc := { s.mc with mode := m } }
  match m with
  | .setup => enter .setupStage t
  | .direct => enter .emuStage t
  | .delay => enter .delayWait t

/-- SETUP_STAGE (R268). -/
def mcSetupStage (s : State) : State := enter .setupInit (rlInvoke .comm s)

/-- SETUP_INIT (R269, R270): storage first, then the network in the same step. -/
def mcSetupInit (present connects : Bool) (s : State) : State :=
  if present then
    let t := { s with mc := { s.mc with storageOk := true, netOk := connects } }
    enter .setupLoop (if connects then t else recordError .networkTimeout t)
  else enter .storageWait (recordError .storageMissing { s with mc := { s.mc with storageOk := false } })

/-- STORAGE_WAIT (R271), its three cases in order. DESIGN CHOICE (log 26): finding storage does not set STORAGE_OK here, since R271 lists
Enter(SETUP_INIT) alone; SETUP_INIT, which checks again, sets it. -/
def mcStorageWait (present : Bool) (s : State) : State :=
  if s.db.evt = .long then enter .factoryReset s
  else if present then enter .setupInit s
  else setEvent .none s

/-- ASCII case folding A..Z to a..z (30_encoding.md R155). -/
def foldCase (b : Byte) : Byte := if 0x41 ≤ b.toNat ∧ b.toNat ≤ 0x5A then b + 0x20 else b

/-- The extension of a name (R278): the bytes after its last `.` (0x2E), empty where there is none. -/
def extension (name : List Byte) : List Byte :=
  if (0x2E : Byte) ∈ name then (name.reverse.takeWhile (fun b => b != 0x2E)).reverse else []

/-- The extension check (R278): equal to an entry of EXT_ALLOW_LIST after folding both sides. -/
def eligible (p : Params) (name : List Byte) : Bool :=
  p.extAllowList.any (fun e => e.map foldCase == (extension name).map foldCase)

/-- LAUNCH_CHECK (R278). -/
def mcLaunchCheck (s : State) : State :=
  if eligible s.params s.mc.pendFile then enter .launchRecord s
  else enter .setupLoop (recordError .fileNotEligible s)

/-- LAUNCH_RECORD (R279, R280): NvSet(file), FsInvoke(STAGE_OFF) and Enter(LAUNCH_FLASH) in one step. An FsInvoke that is fatal makes
no other change (60_exceptions.md R333). -/
def mcLaunchRecord (s : State) : State :=
  let t := fsInvoke (BitVec.ofNat 32 s.params.stageOff) s
  if t.mc.state = .fatal then t else enter .launchFlash (nvSetFile s.mc.pendFile t)

/-- LAUNCH_FLASH (R280, R281): OK goes on, any other result records its code and goes back to SETUP_LOOP. -/
def mcLaunchFlash (s : State) : State :=
  match s.fs.result.error with
  | none => enter .launchPersist s
  | some e => enter .setupLoop (recordError e s)

/-- LAUNCH_PERSIST (R282). -/
def mcLaunchPersist (s : State) : State := enter .resetReq (nvSetMode s.mc.pendMode s)

/-- HANDOFF_PERSIST (R284). -/
def mcHandoffPersist (s : State) : State := enter .handedOff (nvSetMode (encodeMode .setup) (nvSetFile [] s))

/-- DELAY_WAIT (R287, R288). -/
def mcDelayWait (s : State) : State :=
  match s.db.evt with
  | .none => s
  | .short => enter .emuStage (setEvent .none s)
  | .long => enter .factoryReset s

/-- EMU_STAGE (R292). -/
def mcEmuStage (s : State) : State := enter .emuWaitExit (rlInvoke .rom s)

/-- EMU_WAIT_EXIT (R293). -/
def mcEmuWaitExit (s : State) : State :=
  match s.db.evt with
  | .none => s
  | .short => enter .exitPersist (setEvent .none s)
  | .long => enter .factoryReset s

/-- EXIT_PERSIST (R294). -/
def mcExitPersist (s : State) : State := enter .resetReq (nvSetFile [] (nvSetMode (encodeMode .setup) s))

/-- FACTORY_RESET (R296). -/
def mcFactoryReset (s : State) : State := enter .resetReq (nvEraseFile (nvEraseMode s))

/-- One MC step (R260, R265): none while RL_BUSY = 1 or FS_BUSY = 1 (R264), none in SETUP_LOOP, HANDED_OFF, RESET_REQ, FATAL. -/
def mcStep (s : State) : State :=
  if s.rl.busy || s.fs.busy then s
  else
    match s.mc.state with
    | .boot => mcBoot s
    | .setupStage => mcSetupStage s
    | .setupInit => mcSetupInit s.draw.present s.draw.connects s
    | .storageWait => mcStorageWait s.draw.present s
    | .setupLoop => s
    | .launchCheck => mcLaunchCheck s
    | .launchRecord => mcLaunchRecord s
    | .launchFlash => mcLaunchFlash s
    | .launchPersist => mcLaunchPersist s
    | .handoffPersist => mcHandoffPersist s
    | .handedOff => s
    | .delayWait => mcDelayWait s
    | .emuStage => mcEmuStage s
    | .emuWaitExit => mcEmuWaitExit s
    | .exitPersist => mcExitPersist s
    | .factoryReset => mcFactoryReset s
    | .resetReq => s
    | .fatal => s

end Sys2Proof.Machine
end

