-- ==== Sys2Proof/Machine/Reset.lean ====
section
/-! DEFINITION. The device reset (spec/70_reset_and_hazards.md R370 to R372): the only way out of FATAL, HANDED_OFF and RESET_REQ,
and the only way ARMED becomes 0. -/

namespace Sys2Proof.Machine

open Sys2Proof

/-- DeviceReset (R371, R372): every volatile element takes its reset value (10_state.md R71), DOUT is a draw, RAM is unknown again;
FLASH and NV keep their contents. The parameters and the constant micro-program stores stay. What is not the block's (the
wires, storage, the observation, the schedule) is untouched (log 14). -/
def deviceReset (s : State) : State :=
  { State.launch s.params s.draw.dout s.nv s.storage with
    bmProg := s.bmProg
    brProg := s.brProg
    flash := s.flash
    flashBlank := s.flashBlank
    out := s.out
    turns := s.turns
    steps := s.steps
    draw := s.draw
    resets := s.resets + 1
    active := s.active }

end Sys2Proof.Machine
end

