-- ==== Sys2Proof/Machine/Turn.lean ====
section
/-! DEFINITION. One turn: which action comes next, the fetch of a sequencer's micro-word, the delivery of a command word, and the
action of every agent (spec/00_scope.md R8, R9). -/

namespace Sys2Proof.Machine

open Sys2Proof

/-! ## Fetch -/

/-- The micro-word PROG_X[X.UPC] (40_bus_monitor.md R160). -/
def fetchWord (x : Sequencer) (s : State) : Option Word16 := (progOf x s)[upcOf x s]?

/-- A turn of sequencer x: it becomes the active one and runs the micro-word it fetches and decodes (R160). A reserved or illegal
word is refused (30_encoding.md R138). -/
def seqTurn (x : Sequencer) (s : State) : Result :=
  match fetchWord x s with
  | none => .refused .noMicroWord
  | some w =>
    match decodeFor x w with
    | .instr i => exec i { s with active := x }
    | .refused _ => .refused .illFormedMicroWord

/-- WriteCmd(w) (43_mode_controller.md R274): the command w decodes to, or its rejection. -/
def writeCmd (w : Word16) (s : State) : Result :=
  match decodeCommand w with
  | .instr i => exec i s
  | .refused _ => .next (rejectCommand s)

/-- A write of w to CSR n: CMD (0x3) delivers a command, every other write is ignored (10_state.md R59 to R67). -/
def writeCsr (n : BitVec 4) (w : Word16) (s : State) : Result :=
  if n = 3 then writeCmd w s else .next s

/-! ## Turns -/

/-- The effect of one action. An action that is not enabled changes nothing (00_scope.md R16 `stall`). -/
def runAction (a : Action) (s : State) : Result :=
  match a with
  | .seq x => seqTurn x s
  | .lu => .next (luStep s)
  | .rl => rlStep s
  | .fs => fsStep s
  | .mc => .next (mcStep s)
  | .db => .next (dbTick s)
  | .hostAssert k addr => .next (hostAssert k addr s)
  | .hostSample => .next (hostSample s)
  | .hostDeassert k => .next (hostDeassert k s)
  | .setButton l => .next (setButton l s)
  | .writeFname name => writeFname name s
  | .readFname => .next (readFname s)
  | .writeCsr n w => writeCsr n w s
  | .readCsr n => .next (readCsr n s)
  | .deviceReset => .next (deviceReset s)

/-- The turn to take: the first of the queue, or a free turn (log 2). -/
def nextTurn (s : State) : Turn := s.turns.headD (Config.freeTurn s.steps)

/-- The state in which the turn's action runs: the turn is taken off the queue, the counter advances, the turn's draws are the
answers of this step (log 3). -/
def takeTurn (s : State) : State :=
  { s with turns := s.turns.tail, steps := s.steps + 1, draw := (nextTurn s).draw }

/-- One turn of the machine. -/
def runTurn (s : State) : Result := runAction (nextTurn s).action (takeTurn s)

/-! ## Which actions are enabled -/

/-- The action's step is enabled (00_scope.md R8, R16): for a sequencer, its micro-word does not stall; for every other agent its
rule's guard holds. -/
def enabled (a : Action) (s : State) : Bool :=
  match a with
  | .seq x =>
    s.bus.armed &&
      (decide (holdOf x s ≠ 0) ||
        match (fetchWord x s).map (decodeFor x) with
        | some (.instr (.step f)) => waitReady x f.wait s
        | some (.instr (.raise f)) => waitReady x f.wait s
        | some (.instr (.capture f)) => waitReady x f.wait s && !fifoFull s s.bus.addrFifo
        | some (.instr (.drive f)) => waitReady x f.wait s && !s.bus.replyFifo.isEmpty
        | _ => false)
  | .lu => s.bus.armed && !s.bus.addrFifo.isEmpty && !fifoFull s s.bus.replyFifo
  | .rl => s.rl.busy && decide (s.rl.idx.toNat ≤ s.rl.len.toNat)
  | .fs => s.fs.busy
  | .mc =>
    !s.rl.busy && !s.fs.busy &&
      match s.mc.state with
      | .setupLoop => false
      | .handedOff => false
      | .resetReq => false
      | .fatal => false
      | .delayWait => pressSeen s
      | .emuWaitExit => pressSeen s
      | .boot | .setupStage | .setupInit | .storageWait | .launchCheck | .launchRecord | .launchFlash | .launchPersist
      | .handoffPersist | .emuStage | .exitPersist | .factoryReset => true
  | .hostAssert k _ => csOf k s == .high
  | .hostDeassert k => csOf k s == .low
  | .db | .hostSample | .setButton _ | .writeFname _ | .readFname | .writeCsr _ _ | .readCsr _ | .deviceReset => true

/-! ## Placing an instruction -/

/-- Puts a word into the micro-program store of sequencer x at its UPC, with the pair armed and no hold left, so that x's next step
runs it. -/
def placeMicro (x : Sequencer) (w : Word16) (s : State) : State :=
  let t := setHold x 0 { s with bus := { s.bus with armed := true } }
  match x with
  | .bm0 => { t with bmProg := s.bmProg.set (upcOf x s) w }
  | .bm1 => { t with bmProg := s.bmProg.set (upcOf x s) w }
  | .br => { t with brProg := s.brProg.set (upcOf x s) w }

/-- The next turn is action a, with the draws the state holds. -/
def scheduleNext (a : Action) (s : State) : State := { s with turns := ⟨a, s.draw⟩ :: s.turns }

/-- The state whose very next step runs the opcode-table word w (log 13): a command word is the next write to CMD; a micro-word stands
in the store of a sequencer in which it is legal (the BR, else BM0), and that sequencer steps next. -/
def placeWord (w : Word16) (s : State) : State :=
  match decodeCommand w with
  | .instr _ => scheduleNext (.writeCsr 3 w) s
  | .refused _ =>
    match decodeFor .br w with
    | .instr _ => scheduleNext (.seq .br) (placeMicro .br w s)
    | .refused _ => scheduleNext (.seq .bm0) (placeMicro .bm0 w s)

end Sys2Proof.Machine
end

