-- ==== Sys2Proof/Machine/Step.lean ====
section
/-! DEFINITION. The machine's one step, and the state whose next step runs a given instruction. -/

namespace Sys2Proof.Machine

open Sys2Proof

/-- One atomic step of the block or of its environment (spec/00_scope.md R8): the next turn of the interleaving. -/
def step (s : State) : Host.Outcome State Fault Refusal := runTurn s

/-- s with the instruction of an opcode-table word stored where its agent takes its next instruction from, and that agent's turn
next (log 13). -/
def State.withFetchWord (s : State) (nbits w : Nat) : State :=
  placeWord (BitVec.ofNat 16 (w % 2 ^ nbits)) s

end Sys2Proof.Machine
end

