-- ==== Sys2Proof/Machine/Assembler.lean ====
section
/-! DEFINITION. The text form of micro-words and commands (spec/30_encoding.md R150 to R152). A line is a list of characters. It is
a notation of the spec only: no agent of the machine reads text. -/

namespace Sys2Proof.Machine

open Sys2Proof

/-- A line of text. -/
abbrev Text := List Char

/-- The words of a line, split at spaces. -/
def splitWords : Text → List Text
  | [] => [[]]
  | c :: cs =>
    match splitWords cs with
    | [] => [[c]]
    | w :: ws => if c = ' ' then [] :: w :: ws else (c :: w) :: ws

/-- The words of a line, without the empty ones. -/
def lineWords (t : Text) : List Text := (splitWords t).filter (fun w => !w.isEmpty)

/-- A modifier `key=value` split at its first `=`. -/
def splitModifier : Text → Option (Text × Text)
  | [] => none
  | c :: cs => if c = '=' then some ([], cs) else (splitModifier cs).map (fun kv => (c :: kv.1, kv.2))

/-- The value of a decimal digit. -/
def digitValue (c : Char) : Option Nat :=
  if '0'.toNat ≤ c.toNat ∧ c.toNat ≤ '9'.toNat then some (c.toNat - '0'.toNat) else none

/-- A decimal count, read from the left with the value n of the digits before. -/
def decimalFrom : Nat → Text → Option Nat
  | n, [] => some n
  | n, c :: cs =>
    match digitValue c with
    | some d => decimalFrom (10 * n + d) cs
    | none => none

/-- A hold count: decimal, 0 to 63 (R150). -/
def holdOfText (t : Text) : Option (BitVec 6) :=
  if t.isEmpty then none
  else
    match decimalFrom 0 t with
    | some n => if n < 64 then some (BitVec.ofNat 6 n) else none
    | none => none

/-- The values of `wait=` (R150). -/
def waitOfText (t : Text) : Option Wait :=
  if t = "none".toList then some .none
  else if t = "pin_high".toList then some .pinHigh
  else if t = "pin_low".toList then some .pinLow
  else if t = "sig".toList then some .sig
  else if t = "reply".toList then some .reply
  else none

/-- The values of `dir=` (R150). -/
def dirOfText (t : Text) : Option DirOp :=
  if t = "keep".toList then some .keep
  else if t = "in".toList then some .input
  else if t = "out".toList then some .output
  else none

/-- The values of `ctrl=` (R150): RW is not among them. -/
def ctrlOfText (t : Text) : Option CtrlLevel :=
  if t = "nrnw".toList then some .nrnw
  else if t = "nrw".toList then some .nrw
  else if t = "rnw".toList then some .rnw
  else none

/-- The modifiers of a line; a modifier left out is none (R150). -/
structure Modifiers where
  wait : Option Wait
  dir  : Option DirOp
  ctrl : Option CtrlLevel
  hold : Option (BitVec 6)
deriving DecidableEq, Repr

/-- One modifier added; a second one of the same key is refused (log 24). -/
def addModifier (m : Modifiers) (t : Text) : Option Modifiers :=
  match splitModifier t with
  | none => none
  | some (k, v) =>
    if k = "wait".toList ∧ m.wait = none then (waitOfText v).map (fun x => { m with wait := some x })
    else if k = "dir".toList ∧ m.dir = none then (dirOfText v).map (fun x => { m with dir := some x })
    else if k = "ctrl".toList ∧ m.ctrl = none then (ctrlOfText v).map (fun x => { m with ctrl := some x })
    else if k = "hold".toList ∧ m.hold = none then (holdOfText v).map (fun x => { m with hold := some x })
    else none

/-- The modifiers of a line, in any order (R150). -/
def readModifiers : Modifiers → List Text → Option Modifiers
  | m, [] => some m
  | m, t :: ts =>
    match addModifier m t with
    | some m' => readModifiers m' ts
    | none => none

/-- A modifier left out takes its zero encoding; `ctrl=` sets CW = 1 (R150). -/
def Modifiers.fields (m : Modifiers) : MicroFields :=
  ⟨m.wait.getD .none, m.dir.getD .keep, m.ctrl.isSome, m.ctrl.getD .nrnw, m.hold.getD 0⟩

/-- The instruction of a micro-word mnemonic (R150). -/
def mnemonicOfText (t : Text) (f : MicroFields) : Option Instr :=
  if t = "step".toList then some (.step f)
  else if t = "raise".toList then some (.raise f)
  else if t = "capture".toList then some (.capture f)
  else if t = "drive".toList then some (.drive f)
  else none

/-- The fields of a word with every modifier left out. -/
def zeroFields : MicroFields := ⟨.none, .keep, false, .nrnw, 0⟩

/-- The pseudo-instructions without an operand (R151). -/
def pseudoOfText (t : Text) : Option Instr :=
  if t = "nop".toList then some (.step zeroFields)
  else if t = "wait_high".toList then some (.step { zeroFields with wait := .pinHigh })
  else if t = "wait_low".toList then some (.step { zeroFields with wait := .pinLow })
  else if t = "wait_sig".toList then some (.step { zeroFields with wait := .sig })
  else if t = "release".toList then some (.step { zeroFields with dir := .input, cw := true })
  else if t = "dir_out".toList then some (.step { zeroFields with dir := .output })
  else none

/-- The pseudo-instructions `settle n` and `hold n` (R151). -/
def pseudoCountOfText (t : Text) (n : BitVec 6) : Option Instr :=
  if t = "settle".toList then some (.step { zeroFields with cw := true, ctrl := .rnw, hold := n })
  else if t = "hold".toList then some (.step { zeroFields with hold := n })
  else none

/-- A line of a micro-program (R150, R151). -/
def assembleMicro (line : Text) : Option Instr :=
  match lineWords line with
  | [] => none
  | [t] => (pseudoOfText t).or (mnemonicOfText t zeroFields)
  | t :: u :: rest =>
    match pseudoCountOfText t 0, holdOfText u, rest with
    | some _, some n, [] => pseudoCountOfText t n
    | _, _, _ =>
      match readModifiers ⟨none, none, none, none⟩ (u :: rest) with
      | some m => mnemonicOfText t m.fields
      | none => none

/-- A command line (R152): `nop`, `handoff`, `launch direct`, `launch delay`. -/
def assembleCommand (line : Text) : Option Instr :=
  match lineWords line with
  | [t] => if t = "nop".toList then some .nop else if t = "handoff".toList then some .handoff else none
  | [t, u] =>
    if t = "launch".toList ∧ u = "direct".toList then some (.launch .direct)
    else if t = "launch".toList ∧ u = "delay".toList then some (.launch .delay)
    else none
  | _ => none

/-- The bytes of the name in `fname "<name>"` (R152), where the line has that form. DESIGN CHOICE (log 24), since R152 is silent on both:
a character outside one byte becomes its code point modulo 256, and the name runs to the last quote of the line, so a quote may stand
inside it. -/
def fnameOfText (line : Text) : Option (List Byte) :=
  let body := line.drop 7
  if line.take 7 = "fname \"".toList ∧ body.getLast? = some '"' then
    some (body.dropLast.map (fun c => BitVec.ofNat 8 c.toNat))
  else none

/-- A line of a MENU program (R152): a write to the FNAME port, or a command written to CMD. -/
def assembleMenu (line : Text) : Option Action :=
  match fnameOfText line with
  | some name => some (.writeFname name)
  | none => (assembleCommand line).map (fun i => .writeCsr 3 (encode i))

end Sys2Proof.Machine
end

