-- ==== Sys2Proof/Safety.lean ====
section
/-! DEFINITION. What counts as a safe run, in the terms the statements use: runs, their ends and what is observed of them
(spec/70_reset_and_hazards.md R387, R388), weak fairness (R385), the environment's duties (R386), a well-timed host access
(spec/20_memory.md R104), and the invariants of the machine's parts. -/

namespace Sys2Proof.Machine

open Sys2Proof

/-! ## Runs (70_reset_and_hazards.md R387) -/

/-- No fatal error is recorded: the premise of every claim about a run (70 R388). -/
def State.safe (s : State) : Bool := !s.mc.fatalF

/-- How a run ends (R387). -/
inductive RunEnd where
  | handedOff | faulted | resetRequested | interrupted
deriving DecidableEq, Repr

/-- The end of a run that the action a in state s, leading to t, brings (R387): entering HANDED_OFF, entering FATAL, or a
DeviceReset; none where the run goes on. In HANDED_OFF and in FATAL the run is over already, so no action ends it there. -/
def runEnd (a : Action) (s t : State) : Option RunEnd :=
  if s.mc.state = .handedOff ∨ s.mc.state = .fatal then none
  else if a = .deviceReset then some (if s.mc.state = .resetReq then .resetRequested else .interrupted)
  else if t.mc.state = .handedOff then some .handedOff
  else if t.mc.state = .fatal then some .faulted
  else none

/-- The end of a run that the i-th step of the sequence r brings. -/
def endAt (r : Nat → State) (i : Nat) : Option RunEnd := runEnd (nextTurn (r i)).action (r i) (r (i + 1))

/-- The state is one right after a device reset (R371; at the first power-on too, R370): every volatile element at its reset value
and the fixed programs in their stores (R375 (2)); DOUT, FLASH, NV, STORAGE, the parameters and what is not the block's are what they
are (R375 (1), (3), (4), (6); log 14). -/
def afterReset (s : State) : Prop :=
  s = { State.launch s.params s.bus.dout s.nv s.storage with
    flash := s.flash, flashBlank := s.flashBlank, out := s.out, turns := s.turns, steps := s.steps, draw := s.draw
    resets := s.resets, active := s.active }

/-- An unbroken sequence of steps. It may begin anywhere and hold many runs, one after the other. -/
def IsHistory (r : Nat → State) : Prop := ∀ n, step (r n) = .next (r (n + 1))

/-- r is a run whose last step is step n, and it ends as e says (R387): it starts at a device reset, and n is the first of its steps
that ends a run. What r is after that step is of no account. -/
structure EndedRun (r : Nat → State) (n : Nat) (e : RunEnd) : Prop where
  start  : afterReset (r 0)
  steps  : ∀ i, i ≤ n → step (r i) = .next (r (i + 1))
  goesOn : ∀ i, i < n → endAt r i = none
  ends   : endAt r n = some e

/-- r is a run in which nothing of R387 (a) to (c) happens: it is infinite. DESIGN CHOICE (log 28): it has no final state and so no
`runObservation`, since R387 does not say what its final NV and FLASH would be; `observe (r 0) (r n)` is what is observed of it up to
step n. -/
structure EndlessRun (r : Nat → State) : Prop where
  start  : afterReset (r 0)
  steps  : IsHistory r
  goesOn : ∀ i, endAt r i = none

/-- The state in which a run is over, for its observation: the state that its last step leaves, or, where that step is the device
reset, the state which the reset ends (log 28). -/
def lastState (r : Nat → State) (n : Nat) : RunEnd → State
  | .handedOff => r (n + 1)
  | .faulted => r (n + 1)
  | .resetRequested => r n
  | .interrupted => r n

/-- The observation of a run (R387): the HostSample values of the run, oldest first, the final NV and FLASH, the output signals, and
LAST_ERROR. -/
structure Observation where
  samples        : List Sample
  nv             : Nv
  flash          : List Byte
  resetRequested : Bool
  handoff        : Bool
  fatalF         : Bool
  lastError      : ErrorCode
deriving DecidableEq, Repr

/-- The samples HOST took from s on, up to t, oldest first: `samples` spans resets, so those it held at s are left out. -/
def samplesSince (s t : State) : List Sample :=
  (t.out.samples.take (t.out.samples.length - s.out.samples.length)).reverse

/-- What is observed of the run that began in s and is over in t. -/
def observe (s t : State) : Observation where
  samples := samplesSince s t
  nv := t.nv
  flash := (List.range t.params.flashSize).map (flashByte t)
  resetRequested := t.mc.resetRequested
  handoff := t.mc.handoff
  fatalF := t.mc.fatalF
  lastError := t.mc.lastError

/-- The observation of a run that ended. An endless run has none (log 28). -/
def runObservation (r : Nat → State) (n : Nat) (e : RunEnd) : Observation := observe (r 0) (lastState r n e)

/-! ## Fairness and the environment's duties (70_reset_and_hazards.md R385, R386) -/

/-- The action is one the environment can take: MENU writes whole names of 1..FNAME_MAX bytes (10_state.md R66). -/
def actionInDomain (p : Params) : Action → Bool
  | .writeFname name => decide (1 ≤ name.length ∧ name.length ≤ p.fnameMax)
  | .seq _ | .lu | .rl | .fs | .mc | .db | .hostAssert _ _ | .hostSample | .hostDeassert _ | .setButton _ | .readFname
  | .writeCsr _ _ | .readCsr _ | .deviceReset => true

/-- The agents of the block, which weak fairness speaks of (R385). -/
def blockAgents : List Action := [.seq .bm0, .seq .bm1, .seq .br, .lu, .rl, .fs, .mc, .db]

/-- Weak fairness (R385): an agent of the block that stays enabled from some point on steps after it. -/
def WeaklyFair (r : Nat → State) : Prop :=
  ∀ a ∈ blockAgents, ∀ n, (∀ m, n ≤ m → enabled a (r m) = true) → ∃ m, n ≤ m ∧ (nextTurn (r m)).action = a

/-- RESETGEN's duty (R386): once RESET_REQUESTED = 1, a DeviceReset eventually happens. -/
def ResetGranted (r : Nat → State) : Prop :=
  ∀ n, (r n).mc.resetRequested = true → ∃ m, n ≤ m ∧ (nextTurn (r m)).action = .deviceReset

/-! ## A well-timed host access (20_memory.md R104) -/

/-- The sequencer that watches slot k (40_bus_monitor.md R161). -/
def monitorOf : Slot → Sequencer
  | .slot1 => .bm0
  | .slot2 => .bm1

/-- The other slot. -/
def otherSlot : Slot → Slot
  | .slot1 => .slot2
  | .slot2 => .slot1

/-- Step i of the sequence r is the BR's step at UPC u that leaves that UPC: its capture step for u = 3, its drive step for u = 5, its
release step for u = 7 (41_bus_responder.md R187, R190, R194). A stall or a hold cycle at u is not it. -/
def brLeaves (u : Nat) (r : Nat → State) (i : Nat) : Prop :=
  (nextTurn (r i)).action = .seq .br ∧ (r i).bus.brUpc.toNat = u ∧ (r (i + 1)).bus.brUpc.toNat ≠ u

/-- R104, and HOST's duty of 70 R386: the host access at address a on slot k that step `start` of the sequence r begins is well-timed.
`capture` and `drive` are the BR's capture and drive step for it, `sample` its HostSample. Any agent may step in between, the sample
may fall anywhere from the drive to the release, and the HostDeassert anywhere after the capture. Which service is the access's own
is the model's reading (log 27): any whose capture comes while the access lasts. -/
structure WellTimed (r : Nat → State) (k : Slot) (a : Word16) (start capture drive sample : Nat) : Prop where
  /-- HostAssert(k, A) occurs -/
  asserts  : (nextTurn (r start)).action = .hostAssert k a ∧ csOf k (r start) = .high
  /-- (a): the monitor waits for active -/
  waiting  : upcOf (monitorOf k) (r start) = 1
  /-- (b): no other chip-select is asserted from HostAssert until HostDeassert -/
  alone    : ∀ n, start ≤ n → (∀ m, start ≤ m → m < n → (nextTurn (r m)).action ≠ .hostDeassert k) →
    csOf (otherSlot k) (r n) = .high
  /-- (c): the BR is idle and SIG = 0 when HostAssert occurs -/
  idle     : (r start).bus.brUpc.toNat = 0 ∧ (r start).bus.sig = false
  /-- (c): HostDeassert follows the capture step -/
  captured : start < capture ∧ brLeaves 3 r capture ∧
    ∀ n, start < n → n < capture → (nextTurn (r n)).action ≠ .hostDeassert k
  /-- the drive step of the same service: the first one after its capture -/
  driven   : capture < drive ∧ brLeaves 5 r drive ∧ ∀ n, capture < n → n < drive → ¬ brLeaves 5 r n
  /-- (d): the HostSample falls after the drive step and before the release step -/
  sampled  : drive < sample ∧ (nextTurn (r sample)).action = .hostSample ∧
    ∀ n, drive < n → n < sample → ¬ brLeaves 7 r n

/-- A moment at which a well-timed access on slot k may begin (R104 (a), (b), (c)): armed, the monitor waits for active, no
chip-select is asserted, the BR is idle and SIG = 0. -/
def readyForAccess (k : Slot) (s : State) : Bool :=
  s.bus.armed && csOf k s == .high && csOf (otherSlot k) s == .high && upcOf (monitorOf k) s == 1 &&
    decide (holdOf (monitorOf k) s = 0) && s.bus.brUpc == 0 && decide (s.bus.brHold = 0) && !s.bus.sig

/-- One schedule of a well-timed access at address a on slot k, the worked example's (41_bus_responder.md R206): the monitor sees the
line and raises; the BR consumes SIG, releases, settles for 1 + S steps, captures; the LU looks up; the BR turns the pins
round, drives; the host samples. R104 admits every other interleaving too (`WellTimed`). -/
def scheduledRead (k : Slot) (a : Word16) (settle : Nat) : List Action :=
  [.hostAssert k a, .seq (monitorOf k), .seq (monitorOf k), .seq .br, .seq .br] ++
    List.replicate (1 + settle) (.seq .br) ++ [.seq .br, .lu, .seq .br, .seq .br, .hostSample]

/-- The word a well-timed access at address a is promised (41_bus_responder.md R200): RamRead16(RAM_WIN_BASE + {A[15:1], 0b0}). -/
def promisedWord (s : State) (a : Word16) : Word16 :=
  ramRead16 s (s.params.ramWinBase + (a &&& 0xFFFE).setWidth 32)

/-! ## Invariants -/

/-- Both FIFOs are empty. -/
def fifosEmpty (s : State) : Prop := s.bus.addrFifo = [] ∧ s.bus.replyFifo = []

/-- Exactly one entry is in flight (41_bus_responder.md R198): the captured address, or the word looked up at it. -/
def inFlight (s : State) : Prop :=
  (s.bus.addrFifo = [s.bus.cap] ∧ s.bus.replyFifo = []) ∨
    (s.bus.addrFifo = [] ∧ s.bus.replyFifo = [ramRead16 s s.bus.cap])

/-- What holds between BR steps while UPC = n: DIR, CTRL, the FIFOs and DOUT by the table of 41_bus_responder.md R181. -/
def brPhase (n : Nat) (s : State) : Prop :=
  match n with
  | 0 => s.bus.dir = .input ∧ s.bus.ctrl = .nrnw ∧ fifosEmpty s ∧ s.bus.brHold = 0
  | 1 => s.bus.dir = .input ∧ s.bus.ctrl = .nrnw ∧ fifosEmpty s ∧ s.bus.brHold = 0
  | 2 => s.bus.dir = .input ∧ s.bus.ctrl = (if s.bus.brHold = 0 then .nrnw else .rnw) ∧ fifosEmpty s
  | 3 => s.bus.dir = .input ∧ s.bus.ctrl = .rnw ∧ fifosEmpty s ∧ s.bus.brHold = 0
  | 4 => s.bus.dir = .input ∧ s.bus.ctrl = .rnw ∧ inFlight s ∧ s.bus.brHold = 0
  | 5 => s.bus.dir = .output ∧ s.bus.ctrl = .rnw ∧ inFlight s ∧ s.bus.brHold = 0
  | 6 => s.bus.dir = .output ∧ s.bus.ctrl = .nrw ∧ fifosEmpty s ∧ s.bus.dout = ramRead16 s s.bus.cap
  | _ => s.bus.dir = .output ∧ s.bus.ctrl = .nrw ∧ fifosEmpty s ∧ s.bus.dout = ramRead16 s s.bus.cap ∧ s.bus.brHold = 0

/-- A monitor between its steps: at one of its three words, no hold left (10_state.md R34, 40_bus_monitor.md R161). -/
def monitorOk (m : Monitor) : Prop := m.upc.toNat < 3 ∧ m.hold = 0

/-- The bus engine's invariant: the fixed programs (R44), the BR phases (R181, R182, R202), ADDR_HI and CAP (R229, R147, R200), and the
disarmed engine (R203). -/
structure BusInv (s : State) : Prop where
  bmProg    : s.bmProg = bmProgram
  brProg    : s.brProg = brProgram s.params.settleCycles
  monitor0  : monitorOk s.bus.bm0
  monitor1  : monitorOk s.bus.bm1
  phase     : brPhase s.bus.brUpc.toNat s
  holdBound : s.bus.brHold.toNat ≤ s.params.settleCycles.toNat
  capEven   : s.bus.cap.getLsbD 0 = false
  addrHi    : s.bus.armed = true → s.bus.addrHi = s.params.winHigh
  capInWin  : 4 ≤ s.bus.brUpc.toNat → s.bus.cap.extractLsb' 16 16 = s.bus.addrHi
  disarmed  : s.bus.armed = false →
    s.bus.sig = false ∧ s.bus.brUpc = 0 ∧ s.bus.bm0.upc = 0 ∧ s.bus.bm1.upc = 0 ∧ s.bus.cap = 0 ∧ s.bus.addrHi = 0

/-- The states before the boot's load (43_mode_controller.md R266, R268, R287, R292). -/
def McState.beforeLoad : McState → Bool
  | .boot => true
  | .setupStage => true
  | .delayWait => true
  | .emuStage => true
  | .setupInit | .storageWait | .setupLoop | .launchCheck | .launchRecord | .launchFlash | .launchPersist
  | .handoffPersist | .handedOff | .emuWaitExit | .exitPersist | .factoryReset | .resetReq | .fatal => false

/-- The states entered with the load's invocation, in which the MC waits for the load (R268, R292). -/
def McState.loading : McState → Bool
  | .setupInit => true
  | .emuWaitExit => true
  | .boot | .setupStage | .storageWait | .setupLoop | .launchCheck | .launchRecord | .launchFlash | .launchPersist
  | .handoffPersist | .handedOff | .delayWait | .emuStage | .exitPersist | .factoryReset | .resetReq | .fatal => false

/-- The states only reached after the load has armed. -/
def McState.afterArm : McState → Bool
  | .storageWait => true
  | .setupLoop => true
  | .launchCheck => true
  | .launchRecord => true
  | .launchFlash => true
  | .launchPersist => true
  | .handoffPersist => true
  | .handedOff => true
  | .exitPersist => true
  | .boot | .setupStage | .setupInit | .delayWait | .emuStage | .emuWaitExit | .factoryReset | .resetReq | .fatal => false

/-- The states of the SETUP path but BOOT and the shared ends (R268 to R285). -/
def McState.setupPath : McState → Bool
  | .setupStage => true
  | .setupInit => true
  | .storageWait => true
  | .setupLoop => true
  | .launchCheck => true
  | .launchRecord => true
  | .launchFlash => true
  | .launchPersist => true
  | .handoffPersist => true
  | .handedOff => true
  | .boot | .delayWait | .emuStage | .emuWaitExit | .exitPersist | .factoryReset | .resetReq | .fatal => false

/-- The Mode Controller's invariant: the output signals and LP_EN (R263, R297), when RL and FS run (R264), that no load happens while
armed and so no fatal error either (60_exceptions.md R334), MODE (R267), PEND_MODE (10_state.md R53), and the persisted mode on the SETUP
path (R301). -/
structure McInv (s : State) : Prop where
  lpEn      : s.db.lpEn = s.mc.state.isWait
  resetReq  : s.mc.resetRequested = (s.mc.state == .resetReq)
  handoff   : s.mc.handoff = (s.mc.state == .handedOff)
  noFatal   : s.mc.fatalF = false ∧ s.mc.state ≠ .fatal
  rlBusy    : s.rl.busy = true → s.bus.armed = false ∧ s.mc.state.loading = true
  fsBusy    : s.fs.busy = true → s.mc.state = .launchFlash
  before    : s.mc.state.beforeLoad = true → s.bus.armed = false
  loading   : s.mc.state.loading = true → s.rl.busy = true ∨ s.bus.armed = true
  after     : s.mc.state.afterArm = true → s.bus.armed = true
  setupMode : s.mc.state.setupPath = true → s.mc.mode = .setup
  emuMode   : s.mc.state.isEmulation = true → s.mc.mode ≠ .setup
  pendMode  : s.mc.pendMode = 0x00 ∨ s.mc.pendMode = 0x01
  nvSetup   : s.mc.state.setupPath = true → decodeMode s.nv.mode = .setup

/-- Byte i of the image a load copies (42_staging.md R224). -/
def imageByte (s : State) (i : Nat) : Byte :=
  match s.rl.src with
  | .comm => s.params.commImage.getD i 0
  | .rom => flashByte s (s.params.stageOff + i)

/-- The load's invariant: RL_LEN is the image's length and RL_IDX at most that; the bytes copied so far are the image's (R224), and an
armed pair serves a complete copy (R230); a ROM image is served in the emulation modes only (R227, R343). -/
structure LoadInv (s : State) : Prop where
  bounds : s.rl.busy = true ∨ s.bus.armed = true →
    s.rl.len.toNat = loadLength s.params s.rl.src ∧ s.rl.idx.toNat ≤ s.rl.len.toNat
  copied : s.rl.busy = true ∨ s.bus.armed = true →
    ∀ i, i < s.rl.idx.toNat → ramByte s (s.params.ramWinBase.toNat + i) = imageByte s i
  whole  : s.bus.armed = true → s.rl.idx = s.rl.len
  source : s.rl.busy = true ∨ s.bus.armed = true → (s.rl.src = .rom ↔ s.mc.mode ≠ .setup)

/-- Every stored file has a u32 length (20_memory.md R95: StLength is a u32). -/
def storageWf (files : List StoredFile) : Bool := files.all (fun f => decide (f.bytes.length < 2 ^ 32))

/-- The Flash Stager's invariant (42_staging.md R233 to R241): before the start step the cursor is the staging region; after it the open
file has length FS_LEN, the cursor is sector-aligned until the payload ends, and what is left fits the staging region. -/
structure StagerInv (s : State) : Prop where
  start : s.fs.busy = true → s.fs.handle = none → s.fs.off.toNat = s.params.stageOff ∧ s.fs.pos = 0
  chunk : s.fs.busy = true → ∀ h, s.fs.handle = some h →
    (∃ bytes, lookupFile h.name s.storage = some bytes ∧ bytes.length = s.fs.len.toNat) ∧
    s.fs.pos.toNat ≤ s.fs.len.toNat ∧
    (s.fs.off.toNat % s.params.sector = 0 ∨ s.fs.pos = s.fs.len) ∧
    s.params.stageOff ≤ s.fs.off.toNat ∧
    s.fs.off.toNat + (s.fs.len.toNat - s.fs.pos.toNat) ≤ s.params.stageOff + stageSize

/-- The debouncer's invariant (10_state.md R55): CNT in 0..DEBOUNCE_TICKS-1, HOLDC at most LONG_TICKS. -/
structure DebounceInv (s : State) : Prop where
  cnt   : s.db.cnt = 0 ∨ s.db.cnt.toNat < s.params.debounceTicks
  holdc : s.db.holdc.toNat ≤ s.params.longTicks

/-- Both memories are in canonical form. -/
def memoriesWf (s : State) : Bool := Memory.wf s.ram && Memory.wf s.flash

/-- The launch premises about the parameters and the storage content (70_reset_and_hazards.md R375 (1), 20_memory.md R95). -/
def premises (s : State) : Bool := s.params.wf && storageWf s.storage

/-- The invariant of the whole machine. The parts about the load and the flash request need the launch premises. -/
structure MachineInv (s : State) : Prop where
  bus      : BusInv s
  mc       : McInv s
  debounce : DebounceInv s
  load     : premises s = true → LoadInv s
  stager   : premises s = true → StagerInv s

/-! ## Frames -/

/-- Every byte of RAM and every byte of FLASH reads as before. -/
def memoryUnchanged (s t : State) : Prop :=
  (∀ a, ramByte t a = ramByte s a) ∧ (∀ o, flashByte t o = flashByte s o)

/-- Nothing but the bus engine's registers changed. -/
def onlyBusChanged (s t : State) : Prop := t = { s with bus := t.bus } ∧ memoryUnchanged s t

/-- The two stores hold as many words as the spec gives them (10_state.md R44). -/
def programsSized (s : State) : Prop := s.bmProg.length = 3 ∧ s.brProg.length = 8

/-- Sequencer x ended a step whose word has this HOLD field (40_bus_monitor.md R160): with HOLD = 0 its UPC is the next one, else
it stays and the count is loaded. The other sequencers stand still. -/
def endsStep (x : Sequencer) (hold : BitVec 6) (s t : State) : Prop :=
  (if hold = 0 then upcOf x t = (upcOf x s + 1) % (progOf x s).length ∧ holdOf x t = 0
    else upcOf x t = upcOf x s ∧ holdOf x t = hold) ∧
  ∀ y, y ≠ x → upcOf y t = upcOf y s ∧ holdOf y t = holdOf y s

/-- What the DIR field of a micro-word leaves in DIR (30_encoding.md R134). -/
def dirAfter : DirOp → Direction → Direction
  | .keep, d => d
  | .input, _ => .input
  | .output, _ => .output

/-- What the CW and CTRL fields of a micro-word leave in CTRL (30_encoding.md R135). -/
def ctrlAfter (f : MicroFields) (c : CtrlLevel) : CtrlLevel := if f.cw then f.ctrl else c

/-- ARMED and ADDR_HI, which no micro-word writes (10_state.md R68), are as before. -/
def armKept (s t : State) : Prop := t.bus.armed = s.bus.armed ∧ t.bus.addrHi = s.bus.addrHi

/-- The active sequencer may run the micro-word i now: i is legal for it (30_encoding.md R137), the pair is armed and no hold cycle is
left (40_bus_monitor.md R160). -/
def mayRun (i : Instr) (s : State) : Prop :=
  i.legalFor s.active = true ∧ s.bus.armed = true ∧ holdOf s.active s = 0 ∧ programsSized s

/-- i is a micro-word instruction with these fields. -/
def microFields (i : Instr) (f : MicroFields) : Prop := i = .step f ∨ i = .raise f ∨ i = .capture f ∨ i = .drive f

/-- Neither the RL nor the FS runs, so the MC may step (43_mode_controller.md R264). -/
def firmwareIdle (s : State) : Prop := s.rl.busy = false ∧ s.fs.busy = false

/-! ## One agent running alone -/

/-- n steps of one agent, nothing else stepping in between. -/
def repeatStep (agent : State → Result) : Nat → State → Result
  | 0, s => .next s
  | n + 1, s =>
    match agent s with
    | .next t => repeatStep agent n t
    | .fault e => .fault e
    | .refused r => .refused r

/-- Poll ticks that read the given raw samples one after the other (44_button_debouncer.md R311, R312): before each tick the operator
sets the button line to the level that reads so. -/
def ticks : List Bool → State → State
  | [], s => s
  | r :: rs, s => ticks rs (dbTick (setButton (if r then s.params.btnPolarity.asserted else s.params.btnPolarity.asserted.flip) s))

end Sys2Proof.Machine
end

