-- ==== Sys2Proof/Certificates/Slice0/Obligations.lean ====
section
/-! DEFINITION. The statements for the provers, one definition each. Each docstring names the rules of spec/ it formalises, or says
which part is the model's own. Witnesses for every hypothesis are in Sys2Proof/Tests/Slice0.lean. -/

section

open Sys2Proof Sys2Proof.Machine

/-! ## Encoding and decoding -/

/-- Decoding an encoded instruction gives it back, for every instruction of the table: a micro-word in every sequencer in which it is
legal, a command in the CMD register. No operand bit is dropped (30_encoding.md R131 to R137, R143). -/
def Obligations.DecodeReadsEveryEncodedInstruction : Prop :=
  (∀ (x : Sequencer) (i : Instr), i.legalFor x = true → decodeFor x (encode i) = .instr i) ∧
  (∀ i : Instr, i.isCommand = true → decodeCommand (encode i) = .instr i)

/-- Every word has one meaning: a word a sequencer decodes is the encoding of what it decodes to, which is legal there. -/
def Obligations.DecodedMicroWordEncodesBack : Prop :=
  ∀ (x : Sequencer) (w : Word16) (i : Instr), decodeFor x w = .instr i → encode i = w ∧ i.legalFor x = true

/-- R137: which words are well-formed for a Bus Monitor and for the Bus Responder, by their raw fields, and that the fixed programs
are well-formed for every SETTLE_CYCLES. -/
def Obligations.MicroWordWellFormedExactly : Prop :=
  (∀ (x : Sequencer) (w : Word16), x ≠ .br →
    ((∃ i, decodeFor x w = .instr i) ↔
      (w.extractLsb' 13 3).toNat ≤ 2 ∧ w.extractLsb' 11 2 = 0 ∧ w.getLsbD 10 = false ∧ w.extractLsb' 8 2 = 0 ∧
        (w.extractLsb' 6 2).toNat ≤ 1)) ∧
  (∀ w : Word16,
    (∃ i, decodeFor .br w = .instr i) ↔
      ((w.extractLsb' 13 3).toNat = 0 ∨ (w.extractLsb' 13 3).toNat = 3 ∨ (w.extractLsb' 13 3).toNat = 4) ∧
        w.extractLsb' 11 2 ≠ 3 ∧ (w.getLsbD 10 = true → w.extractLsb' 8 2 ≠ 3) ∧
        (w.getLsbD 10 = false → w.extractLsb' 8 2 = 0) ∧ w.extractLsb' 6 2 ≠ 1) ∧
  (∀ w ∈ bmProgram, ∃ i, decodeFor .bm0 w = .instr i ∧ decodeFor .bm1 w = .instr i) ∧
  (∀ (n : BitVec 6), ∀ w ∈ brProgram n, ∃ i, decodeFor .br w = .instr i)

/-- R138: each reserved or illegal encoding is refused by the decoder and by the sequencer that fetches it, and with the fixed stores
no sequencer ever holds one. -/
def Obligations.ReservedMicroWordsRefused : Prop :=
  (∀ (x : Sequencer) (w : Word16),
    (5 ≤ (w.extractLsb' 13 3).toNat ∨ w.extractLsb' 11 2 = 3 ∨ (w.getLsbD 10 = true ∧ w.extractLsb' 8 2 = 3) ∨
      (w.getLsbD 10 = false ∧ w.extractLsb' 8 2 ≠ 0) ∨ (x = .br ∧ w.extractLsb' 6 2 = 1) ∨
      (x ≠ .br ∧ 2 ≤ (w.extractLsb' 6 2).toNat)) →
    (∃ e, decodeFor x w = .refused e) ∧
    ∀ s, fetchWord x s = some w → seqTurn x s = .refused .illFormedMicroWord) ∧
  (∀ (s : State) (x : Sequencer), BusInv s → ∃ w i, fetchWord x s = some w ∧ decodeFor x w = .instr i)

/-- The words of the tables of R140 (with S = 1, and hold 63) and R143, written out, decode to the instructions they stand for. In a
sequencer 0x0001 is BR 6, the hold word; in the CMD register it is launch direct. -/
def Obligations.SampleWordsDecode : Prop :=
  decodeFor .bm0 0x2000 = .instr (.step ⟨.pinHigh, .keep, false, .nrnw, 0⟩) ∧
  decodeFor .bm1 0x4000 = .instr (.step ⟨.pinLow, .keep, false, .nrnw, 0⟩) ∧
  decodeFor .bm0 0x0040 = .instr (.raise ⟨.none, .keep, false, .nrnw, 0⟩) ∧
  decodeFor .br 0x6000 = .instr (.step ⟨.sig, .keep, false, .nrnw, 0⟩) ∧
  decodeFor .br 0x0C00 = .instr (.step ⟨.none, .input, true, .nrnw, 0⟩) ∧
  decodeFor .br 0x0601 = .instr (.step ⟨.none, .keep, true, .rnw, 1⟩) ∧
  decodeFor .br 0x0080 = .instr (.capture ⟨.none, .keep, false, .nrnw, 0⟩) ∧
  decodeFor .br 0x1000 = .instr (.step ⟨.none, .output, false, .nrnw, 0⟩) ∧
  decodeFor .br 0x85C0 = .instr (.drive ⟨.reply, .keep, true, .nrw, 0⟩) ∧
  decodeFor .br 0x0001 = .instr (.step ⟨.none, .keep, false, .nrnw, 1⟩) ∧
  decodeFor .br 0x003F = .instr (.step ⟨.none, .keep, false, .nrnw, 63⟩) ∧
  decodeCommand 0x0000 = .instr .nop ∧ decodeCommand 0x0001 = .instr (.launch .direct) ∧
  decodeCommand 0x0101 = .instr (.launch .delay) ∧ decodeCommand 0x0002 = .instr .handoff

/-- R145 and R146: the mode code both ways. -/
def Obligations.ModeCodeRoundTrip : Prop :=
  decodeMode none = .setup ∧ decodeMode (some 0x00) = .direct ∧ decodeMode (some 0x01) = .delay ∧
  (∀ c : Byte, c ≠ 0x00 → c ≠ 0x01 → decodeMode (some c) = .setup) ∧
  encodeMode .direct = 0x00 ∧ encodeMode .delay = 0x01 ∧ encodeMode .setup = 0xFF ∧
  ∀ m : OpMode, decodeMode (some (encodeMode m)) = m

/-! ## Steps of the machine -/

/-- A step runs the decoded instruction. It takes the next turn, which touches only the model's own scheduling fields (log 2, log 3);
a sequencer's turn executes the instruction that the word at its UPC decodes to (40_bus_monitor.md R160), and a write to CMD
executes the command its word decodes to (43_mode_controller.md R273). -/
def Obligations.StepRunsTheDecodedInstruction : Prop :=
  ∀ s : State,
    step s = runAction (nextTurn s).action (takeTurn s) ∧
    takeTurn s = { s with turns := s.turns.tail, steps := s.steps + 1, draw := (nextTurn s).draw } ∧
    (∀ (t : Turn) (rest : List Turn), s.turns = t :: rest → nextTurn s = t) ∧
    (∀ (x : Sequencer) (w : Word16) (i : Instr),
      (nextTurn s).action = .seq x → (progOf x s)[upcOf x s]? = some w → decodeFor x w = .instr i →
      step s = exec i { takeTurn s with active := x }) ∧
    (∀ (w : Word16) (i : Instr),
      (nextTurn s).action = .writeCsr 3 w → decodeCommand w = .instr i → step s = exec i (takeTurn s))

/-- The wait-conditions of R133, in which sequencer each is legal, and that SIG is cleared when it is consumed. -/
def Obligations.WaitConditionTable : Prop :=
  ∀ s : State,
    (∀ x, waitReady x .none s = true) ∧
    (waitReady .bm0 .pinHigh s = true ↔ s.out.cs1 = .high) ∧ (waitReady .bm0 .pinLow s = true ↔ s.out.cs1 = .low) ∧
    (waitReady .bm1 .pinHigh s = true ↔ s.out.cs2 = .high) ∧ (waitReady .bm1 .pinLow s = true ↔ s.out.cs2 = .low) ∧
    (∀ x, waitReady x .sig s = true ↔ s.bus.sig = true) ∧
    (∀ x, waitReady x .reply s = true ↔ s.bus.replyFifo ≠ []) ∧
    waitEffect .sig s = { s with bus := { s.bus with sig := false } } ∧
    (∀ w, w ≠ .sig → waitEffect w s = s) ∧
    (∀ i f, microFields i f → i.legalFor .br = true → f.wait = .none ∨ f.wait = .sig ∨ f.wait = .reply) ∧
    (∀ i f x, x ≠ .br → microFields i f → i.legalFor x = true → f.wait = .none ∨ f.wait = .pinHigh ∨ f.wait = .pinLow)

/-! ## The micro-word instructions -/

/-- `step` (R164): it completes when its wait-condition holds, with the DIR, CTRL, SIG and HOLD effects of its fields and nothing
else. -/
def Obligations.StepInstructionResultAndFrame : Prop :=
  ∀ (f : MicroFields) (s : State), mayRun (.step f) s → waitReady s.active f.wait s = true →
    ∃ t, exec (.step f) s = .next t ∧
      t.bus.sig = (if f.wait = .sig then false else s.bus.sig) ∧
      t.bus.dir = dirAfter f.dir s.bus.dir ∧ t.bus.ctrl = ctrlAfter f s.bus.ctrl ∧
      endsStep s.active f.hold s t ∧ armKept s t ∧ t.bus.cap = s.bus.cap ∧ t.bus.dout = s.bus.dout ∧
      t.bus.addrFifo = s.bus.addrFifo ∧ t.bus.replyFifo = s.bus.replyFifo ∧ onlyBusChanged s t

/-- `raise` (R166): it completes when its wait-condition holds and leaves SIG = 1, whatever SIG was; DIR and CTRL cannot change,
since a BM word leaves them alone (R137). -/
def Obligations.RaiseInstructionResultAndFrame : Prop :=
  ∀ (f : MicroFields) (s : State), mayRun (.raise f) s → waitReady s.active f.wait s = true →
    ∃ t, exec (.raise f) s = .next t ∧
      t.bus.sig = true ∧ endsStep s.active f.hold s t ∧
      t.bus.dir = s.bus.dir ∧ t.bus.ctrl = s.bus.ctrl ∧ armKept s t ∧ t.bus.cap = s.bus.cap ∧ t.bus.dout = s.bus.dout ∧
      t.bus.addrFifo = s.bus.addrFifo ∧ t.bus.replyFifo = s.bus.replyFifo ∧ onlyBusChanged s t

/-- `capture` (R188): it completes when its wait-condition holds and ADDR_FIFO is not full; CAP and the pushed entry are the high
word with the sampled pins, bit 0 forced to 0. -/
def Obligations.CaptureInstructionResultAndFrame : Prop :=
  ∀ (f : MicroFields) (s : State), mayRun (.capture f) s → waitReady s.active f.wait s = true →
    s.bus.addrFifo.length < s.params.fifoDepth →
    ∃ t, exec (.capture f) s = .next t ∧
      t.bus.cap = s.bus.addrHi ++ (sampleAd s &&& 0xFFFE) ∧ t.bus.cap.getLsbD 0 = false ∧
      t.bus.addrFifo = s.bus.addrFifo ++ [t.bus.cap] ∧
      t.bus.sig = (if f.wait = .sig then false else s.bus.sig) ∧
      t.bus.dir = dirAfter f.dir s.bus.dir ∧ t.bus.ctrl = ctrlAfter f s.bus.ctrl ∧
      endsStep s.active f.hold s t ∧ armKept s t ∧ t.bus.dout = s.bus.dout ∧ t.bus.replyFifo = s.bus.replyFifo ∧
      onlyBusChanged s t

/-- `drive` (R192): it completes when its wait-condition holds and REPLY_FIFO is not empty; DOUT is the popped word, bit for bit. -/
def Obligations.DriveInstructionResultAndFrame : Prop :=
  ∀ (f : MicroFields) (s : State) (w : Word16) (rest : List Word16), mayRun (.drive f) s →
    waitReady s.active f.wait s = true → s.bus.replyFifo = w :: rest →
    ∃ t, exec (.drive f) s = .next t ∧
      t.bus.dout = w ∧ t.bus.replyFifo = rest ∧
      t.bus.sig = (if f.wait = .sig then false else s.bus.sig) ∧
      t.bus.dir = dirAfter f.dir s.bus.dir ∧ t.bus.ctrl = ctrlAfter f s.bus.ctrl ∧
      endsStep s.active f.hold s t ∧ armKept s t ∧ t.bus.cap = s.bus.cap ∧ t.bus.addrFifo = s.bus.addrFifo ∧
      onlyBusChanged s t

/-- A stalled step changes nothing (R160): disarmed; or the wait-condition fails; or a capture finds ADDR_FIFO full; or a drive finds
REPLY_FIFO empty. -/
def Obligations.StalledMicroWordChangesNothing : Prop :=
  ∀ (i : Instr) (f : MicroFields) (s : State), microFields i f → i.legalFor s.active = true →
    (s.bus.armed = false ∨
      (holdOf s.active s = 0 ∧
        (waitReady s.active f.wait s = false ∨ (i = .capture f ∧ s.params.fifoDepth ≤ s.bus.addrFifo.length) ∨
          (i = .drive f ∧ s.bus.replyFifo = [])))) →
    exec i s = .next s

/-- A hold cycle (R160, R132): HOLD counts down by one, the UPC advances when it reaches 0, and nothing else changes, whatever the
micro-word. -/
def Obligations.HoldCycleOnlyCountsDown : Prop :=
  ∀ (i : Instr) (f : MicroFields) (s : State), microFields i f → i.legalFor s.active = true → s.bus.armed = true →
    holdOf s.active s ≠ 0 → programsSized s →
    ∃ t, exec i s = .next t ∧
      (holdOf s.active t).toNat + 1 = (holdOf s.active s).toNat ∧
      upcOf s.active t =
        (if (holdOf s.active s).toNat = 1 then (upcOf s.active s + 1) % (progOf s.active s).length else upcOf s.active s) ∧
      (∀ y, y ≠ s.active → upcOf y t = upcOf y s ∧ holdOf y t = holdOf y s) ∧
      t.bus.sig = s.bus.sig ∧ t.bus.dir = s.bus.dir ∧ t.bus.ctrl = s.bus.ctrl ∧ armKept s t ∧ t.bus.cap = s.bus.cap ∧
      t.bus.dout = s.bus.dout ∧ t.bus.addrFifo = s.bus.addrFifo ∧ t.bus.replyFifo = s.bus.replyFifo ∧ onlyBusChanged s t

/-- What a capture samples (R102): the address presented on the selected slot while DIR = IN and CTRL = RNW, and a draw while no
select is low, or DIR or CTRL is another. That two selects with one address show that address, and with two addresses a draw, is the
model's reading (log 10). -/
def Obligations.CaptureSamplesThePresentedAddress : Prop :=
  ∀ s : State,
    (s.bus.dir = .input → s.bus.ctrl = .rnw → s.out.cs1 = .low → s.out.cs2 = .high → sampleAd s = s.out.addr1) ∧
    (s.bus.dir = .input → s.bus.ctrl = .rnw → s.out.cs1 = .high → s.out.cs2 = .low → sampleAd s = s.out.addr2) ∧
    (s.out.cs1 = .high → s.out.cs2 = .high → sampleAd s = s.draw.pins) ∧
    (s.bus.dir = .output ∨ s.bus.ctrl ≠ .rnw → sampleAd s = s.draw.pins)

/-! ## The commands -/

/-- `nop` (R275): no effect in any state; 0x0100 is no nop but a reserved encoding. -/
def Obligations.NopCommandChangesNothing : Prop :=
  ∀ s : State,
    exec .nop s = .next s ∧ writeCmd 0x0000 s = .next s ∧
    (s.mc.state.isTerminal = false → writeCmd 0x0100 s = .next { s with mc := { s.mc with lastError := .commandRejected } }) ∧
    (s.mc.state.isTerminal = true → writeCmd 0x0100 s = .next s)

/-- `launch` (R276): accepted in SETUP_LOOP with the four writes, RESULT then reads busy with no error; rejected with 0x09 in any
other state, ignored in the terminal ones. -/
def Obligations.LaunchCommandResultAndFrame : Prop :=
  ∀ (m : LaunchMode) (s : State),
    (s.mc.state = .setupLoop →
      ∃ t, exec (.launch m) s = .next t ∧
        t.mc.lastError = .none ∧ t.mc.pendFile = s.menu.fname ∧
        t.mc.pendMode = (if m = .direct then 0x00 else 0x01) ∧ t.mc.state = .launchCheck ∧ t.db.lpEn = false ∧
        csrValue 4 t = 0x0100 ∧
        t = { s with mc := { s.mc with lastError := .none, pendFile := t.mc.pendFile, pendMode := t.mc.pendMode, state := .launchCheck },
                     db := { s.db with lpEn := false } } ∧
        memoryUnchanged s t) ∧
    (s.mc.state ≠ .setupLoop → s.mc.state.isTerminal = false →
      exec (.launch m) s = .next { s with mc := { s.mc with lastError := .commandRejected } }) ∧
    (s.mc.state.isTerminal = true → exec (.launch m) s = .next s)

/-- `handoff` (R277): accepted in SETUP_LOOP, rejected with 0x09 in any other state, ignored in the terminal ones; 0x0102 is
reserved. -/
def Obligations.HandoffCommandResultAndFrame : Prop :=
  ∀ s : State,
    (s.mc.state = .setupLoop →
      ∃ t, exec .handoff s = .next t ∧ t.mc.lastError = .none ∧ t.mc.state = .handoffPersist ∧ t.db.lpEn = false ∧
        csrValue 4 t = 0x0100 ∧
        t = { s with mc := { s.mc with lastError := .none, state := .handoffPersist }, db := { s.db with lpEn := false } } ∧
        memoryUnchanged s t) ∧
    (s.mc.state ≠ .setupLoop → s.mc.state.isTerminal = false →
      exec .handoff s = .next { s with mc := { s.mc with lastError := .commandRejected } } ∧
      writeCmd 0x0102 s = .next { s with mc := { s.mc with lastError := .commandRejected } }) ∧
    (s.mc.state.isTerminal = true → exec .handoff s = .next s)

/-- The command dispatch of R274, case by case in its order, for every word and every state. -/
def Obligations.CommandDispatch : Prop :=
  ∀ (w : Word16) (s : State),
    writeCmd w s = .next
      (if s.mc.state = .handedOff ∨ s.mc.state = .resetReq ∨ s.mc.state = .fatal then s
       else if w.extractLsb' 9 7 ≠ 0 ∨ 2 < (w.extractLsb' 0 8).toNat ∨
           (w.getLsbD 8 = true ∧ (w.extractLsb' 0 8).toNat ≠ 1) then
         { s with mc := { s.mc with lastError := .commandRejected } }
       else if (w.extractLsb' 0 8).toNat = 0 then s
       else if s.mc.state ≠ .setupLoop then { s with mc := { s.mc with lastError := .commandRejected } }
       else if (w.extractLsb' 0 8).toNat = 1 then
         enter .launchCheck
           { s with mc := { s.mc with
               lastError := .none, pendFile := s.menu.fname, pendMode := if w.getLsbD 8 = false then 0x00 else 0x01 } }
       else enter .handoffPersist { s with mc := { s.mc with lastError := .none } })

/-! ## The lookup unit and the RAM Loader -/

/-- The LU step (R196): armed, an address waiting and room for the reply, it pops the address and pushes the halfword there, the odd
byte in the high half; in every other case it stalls. -/
def Obligations.LookupStepReadsTheWindow : Prop :=
  ∀ s : State,
    (∀ a rest, s.bus.armed = true → s.bus.addrFifo = a :: rest → s.bus.replyFifo.length < s.params.fifoDepth →
      luStep s = { s with bus := { s.bus with
        addrFifo := rest, replyFifo := s.bus.replyFifo ++ [ramByte s (a + 1).toNat ++ ramByte s a.toNat] } } ∧
      memoryUnchanged s (luStep s)) ∧
    (s.bus.armed = false ∨ s.bus.addrFifo = [] ∨ s.params.fifoDepth ≤ s.bus.replyFifo.length → luStep s = s)

/-- The RL copy step (R223): one byte of the source at RL_IDX goes to RAM_WIN_BASE + RL_IDX, RL_IDX advances, nothing else
changes. -/
def Obligations.CopyStepCopiesOneByte : Prop :=
  ∀ s : State, premises s = true → s.rl.busy = true → s.bus.armed = false → s.rl.idx.toNat < s.rl.len.toNat →
    s.rl.len.toNat = loadLength s.params s.rl.src →
    ∃ t, rlStep s = .next t ∧
      ramByte t (s.params.ramWinBase.toNat + s.rl.idx.toNat) =
        (match s.rl.src with
          | .comm => s.params.commImage.getD s.rl.idx.toNat 0
          | .rom => flashByte s (s.params.stageOff + s.rl.idx.toNat)) ∧
      (∀ a, a ≠ s.params.ramWinBase.toNat + s.rl.idx.toNat → ramByte t a = ramByte s a) ∧
      (∀ o, flashByte t o = flashByte s o) ∧
      t.rl.idx.toNat = s.rl.idx.toNat + 1 ∧
      t = { s with ram := t.ram, rl := { s.rl with idx := t.rl.idx } }

/-- The ARM step (R228): all its writes in one step; DIR, CTRL, DOUT, CAP, memory and everything else stay. -/
def Obligations.ArmStepArmsThePair : Prop :=
  ∀ s : State, s.rl.busy = true → s.rl.idx = s.rl.len → s.bus.armed = false →
    rlStep s = .next
      { s with
        bus :=
          { armed := true, addrHi := s.params.ramWinBase.extractLsb' 16 16, sig := false, bm0 := ⟨0, 0⟩, bm1 := ⟨0, 0⟩,
            brUpc := 0, brHold := 0, cap := s.bus.cap, dout := s.bus.dout, dir := s.bus.dir, ctrl := s.bus.ctrl,
            addrFifo := [], replyFifo := [] }
        rl := { s.rl with busy := false } }

/-- A load that finds ARMED = 1 is fatal (R222, R228, R333): the six writes of Fatal(0x04) and no other change, no RAM write, no
ARM. -/
def Obligations.RearmIsFatal : Prop :=
  ∀ s : State, s.rl.busy = true → s.rl.idx.toNat ≤ s.rl.len.toNat → s.bus.armed = true →
    ∃ t, rlStep s = .next t ∧
      t.mc.lastError.code = 0x04 ∧ t.mc.state.code = 0x3F ∧ t.mc.fatalF = true ∧ t.db.lpEn = false ∧
      t.rl.busy = false ∧ t.fs.busy = false ∧
      t = { s with
            mc := { s.mc with lastError := .busArmError, fatalF := true, state := .fatal }
            db := { s.db with lpEn := false }
            rl := { s.rl with busy := false }
            fs := { s.fs with busy := false } } ∧
      memoryUnchanged s t

/-- A whole load (R221, R224, R225, R230): from its invocation, RL_LEN copy steps and the ARM step leave the window holding the
source byte for byte, every other RAM byte and all of FLASH as before, and the pair armed. -/
def Obligations.WholeLoadCopiesTheImageThenArms : Prop :=
  ∀ (src : Source) (s : State), premises s = true → s.rl.busy = false → s.bus.armed = false →
    ∃ t, repeatStep rlStep (loadLength s.params src + 1) (rlInvoke src s) = .next t ∧
      (∀ i, i < loadLength s.params src →
        ramByte t (s.params.ramWinBase.toNat + i) =
          (match src with
            | .comm => s.params.commImage.getD i 0
            | .rom => flashByte s (s.params.stageOff + i))) ∧
      (∀ a, a < s.params.ramWinBase.toNat ∨ s.params.ramWinBase.toNat + loadLength s.params src ≤ a →
        ramByte t a = ramByte s a) ∧
      (∀ o, flashByte t o = flashByte s o) ∧
      t.bus.armed = true ∧ t.bus.addrHi = s.params.ramWinBase.extractLsb' 16 16 ∧ t.rl.busy = false ∧ t.rl.src = src

/-! ## The Flash Stager -/

/-- FsInvoke (R233): in an emulation state fatal 0x07; else, with no request running, the request's registers. -/
def Obligations.FlashRequestInvocation : Prop :=
  ∀ (d : BitVec 32) (s : State), s.fs.busy = false →
    (s.mc.state.isEmulation = true →
      fsInvoke d s = { s with
        mc := { s.mc with lastError := .flashWhileEmulating, fatalF := true, state := .fatal }
        db := { s.db with lpEn := false }
        rl := { s.rl with busy := false }
        fs := { s.fs with busy := false } }) ∧
    (s.mc.state.isEmulation = false →
      fsInvoke d s = { s with fs := ⟨true, none, 0, 0, d, .ok⟩ })

/-- The FS start step (R234 to R237), every case: alignment, open, header skip, size check; it changes the FS registers alone. That a
file which STORAGE does not hold ends with StorageError whatever StOpen's draw is the model's reading (log 8, DEDUCED), and so is what
FS_LEN and FS_POS hold after an error (log 19). -/
def Obligations.FlashStartStepCases : Prop :=
  ∀ s : State, s.fs.busy = true → s.fs.handle = none →
    (s.fs.off.toNat % s.params.sector ≠ 0 →
      fsStep s = .next { s with fs := { s.fs with busy := false, result := .alignmentError } }) ∧
    (s.fs.off.toNat % s.params.sector = 0 → (s.draw.opens = false ∨ lookupFile s.mc.pendFile s.storage = none) →
      fsStep s = .next { s with fs := { s.fs with busy := false, result := .storageError } }) ∧
    (∀ file, s.fs.off.toNat % s.params.sector = 0 → s.draw.opens = true →
      lookupFile s.mc.pendFile s.storage = some file → file.length < 2 ^ 32 →
      ((4 < file.length ∧ (file.length - 4) % s.params.sector = 0) → s.draw.reads = false →
        fsStep s = .next { s with fs := { s.fs with
          busy := false, result := .storageError, len := BitVec.ofNat 32 file.length } }) ∧
      (¬(4 < file.length ∧ (file.length - 4) % s.params.sector = 0) ∨ s.draw.reads = true →
        ∀ p, p = (if 4 < file.length ∧ (file.length - 4) % s.params.sector = 0 ∧ file.take 4 = [0, 0, 0, 0] then 4 else 0) →
          fsStep s = .next { s with fs :=
            if stageSize < file.length - p then
              { s.fs with busy := false, result := .notEligible, len := BitVec.ofNat 32 file.length, pos := BitVec.ofNat 32 p }
            else
              { s.fs with handle := some ⟨s.mc.pendFile⟩, len := BitVec.ofNat 32 file.length, pos := BitVec.ofNat 32 p } }))

/-- swap16 (R238): byte 2i and byte 2i + 1 change places, swapping twice restores the buffer, and every padded chunk has an even
length. -/
def Obligations.ByteSwapIsAnInvolution : Prop :=
  (∀ buf : List Byte, buf.length % 2 = 0 →
    (swap16 buf).length = buf.length ∧
    (∀ i, i < buf.length / 2 → (swap16 buf)[2 * i]? = buf[2 * i + 1]? ∧ (swap16 buf)[2 * i + 1]? = buf[2 * i]?) ∧
    swap16 (swap16 buf) = buf) ∧
  ∀ (p : Params) (chunk : List Byte), p.wf = true → (padChunk p chunk).length % 2 = 0

/-- The padding (R239): the padded size is the least multiple of PAGE that holds the chunk, the added bytes are FILLER, none is added
to a multiple of PAGE, and after the swap an odd chunk has FILLER at offset n - 1 and its last byte at offset n. -/
def Obligations.PaddingIsTheLeastPageMultiple : Prop :=
  ∀ (p : Params) (chunk : List Byte), p.wf = true →
    ∃ n, n = (padChunk p chunk).length ∧ n % p.page = 0 ∧ chunk.length ≤ n ∧
      (∀ q, q % p.page = 0 → chunk.length ≤ q → n ≤ q) ∧
      (∀ i, i < chunk.length → (padChunk p chunk)[i]? = chunk[i]?) ∧
      (∀ i, chunk.length ≤ i → i < n → (padChunk p chunk)[i]? = some p.filler) ∧
      (chunk.length % p.page = 0 → padChunk p chunk = chunk) ∧
      (chunk.length % 2 = 1 →
        (swap16 (padChunk p chunk))[chunk.length - 1]? = some p.filler ∧
        (swap16 (padChunk p chunk))[chunk.length]? = chunk[chunk.length - 1]?)

/-- The FS chunk step that succeeds (R240 to R242): the sector at FS_OFF holds the padded, swapped chunk and then ERASED; no other
byte of FLASH and no byte of RAM changes; the cursor and the position advance by the unpadded length. -/
def Obligations.FlashChunkStepProgramsOneSector : Prop :=
  ∀ (s : State) (h : Handle) (file : List Byte), MachineInv s → premises s = true →
    s.fs.busy = true → s.fs.handle = some h → s.fs.pos ≠ s.fs.len → s.draw.reads = true → s.draw.verifies = true →
    lookupFile h.name s.storage = some file →
    ∀ n out, n = min s.params.sector (s.fs.len.toNat - s.fs.pos.toNat) →
      out = swap16 (padChunk s.params ((file.drop s.fs.pos.toNat).take n)) →
      ∃ t, fsStep s = .next t ∧
        (∀ i, i < out.length → some (flashByte t (s.fs.off.toNat + i)) = out[i]?) ∧
        (∀ i, out.length ≤ i → i < s.params.sector → flashByte t (s.fs.off.toNat + i) = s.params.erased) ∧
        (∀ o, o < s.fs.off.toNat ∨ s.fs.off.toNat + s.params.sector ≤ o → flashByte t o = flashByte s o) ∧
        (∀ a, ramByte t a = ramByte s a) ∧
        t.fs.off.toNat = s.fs.off.toNat + n ∧ t.fs.pos.toNat = s.fs.pos.toNat + n ∧
        t = { s with flash := t.flash, flashBlank := t.flashBlank, fs := { s.fs with off := t.fs.off, pos := t.fs.pos } }

/-- How a request ends (R240, R243, R335): the payload is done; a read error leaves FLASH alone; a failed verify leaves every byte
outside the chunk's sector. -/
def Obligations.FlashChunkStepEndings : Prop :=
  ∀ (s : State) (h : Handle), MachineInv s → premises s = true → s.fs.busy = true → s.fs.handle = some h →
    (s.fs.pos = s.fs.len → fsStep s = .next { s with fs := { s.fs with busy := false, handle := none, result := .ok } }) ∧
    (s.fs.pos ≠ s.fs.len → s.draw.reads = false →
      fsStep s = .next { s with fs := { s.fs with busy := false, handle := none, result := .storageError } }) ∧
    (s.fs.pos ≠ s.fs.len → s.draw.reads = true → s.draw.verifies = false →
      ∃ t, fsStep s = .next t ∧
        (∀ o, o < s.fs.off.toNat ∨ s.fs.off.toNat + s.params.sector ≤ o → flashByte t o = flashByte s o) ∧
        (∀ a, ramByte t a = ramByte s a) ∧
        t = { s with
              flash := t.flash, flashBlank := t.flashBlank
              fs := { s.fs with busy := false, handle := none, result := .flashProgramError } })

/-- A successful request (R247): after the start step, ceil(payload / SECTOR) + 1 chunk steps end with OK and leave the staging region
holding the swapped, padded payload from its start on. That the count holds for SECTOR = 4 and a skipped header too, where R248 (d) counts
one chunk more, is the model's choice (log 29). -/
def Obligations.SuccessfulRequestProgramsThePayload : Prop :=
  ∀ (s : State) (h : Handle) (file : List Byte), MachineInv s → premises s = true →
    s.fs.busy = true → s.fs.handle = some h → s.draw.reads = true → s.draw.verifies = true →
    lookupFile h.name s.storage = some file → s.fs.off.toNat = s.params.stageOff →
    ∀ out, out = swap16 (padChunk s.params (file.drop s.fs.pos.toNat)) →
      ∃ t, repeatStep fsStep ((file.length - s.fs.pos.toNat + s.params.sector - 1) / s.params.sector + 1) s = .next t ∧
        t.fs.busy = false ∧ t.fs.result = .ok ∧ t.fs.pos = s.fs.len ∧
        t.fs.off.toNat = s.params.stageOff + (file.length - s.fs.pos.toNat) ∧
        (∀ i, i < out.length → some (flashByte t (s.params.stageOff + i)) = out[i]?) ∧
        (∀ o, o < s.params.stageOff → flashByte t o = flashByte s o) ∧ (∀ a, ramByte t a = ramByte s a)

/-! ## The Mode Controller -/

/-- BOOT (R266): MODE is the decoded persisted mode, and it alone selects the branch. -/
def Obligations.BootBranchesOnThePersistedMode : Prop :=
  ∀ s : State, firmwareIdle s → s.mc.state = .boot →
    (mcStep s).mc.mode = decodeMode s.nv.mode ∧
    (mcStep s).mc.state =
      (match decodeMode s.nv.mode with
        | .setup => .setupStage
        | .direct => .emuStage
        | .delay => .delayWait) ∧
    (decodeMode s.nv.mode = .delay → (mcStep s).db = { s.db with evt := .none, lpEn := true }) ∧
    (decodeMode s.nv.mode ≠ .delay → (mcStep s).db = { s.db with lpEn := false }) ∧
    mcStep s = { s with mc := { s.mc with mode := (mcStep s).mc.mode, state := (mcStep s).mc.state }, db := (mcStep s).db }

/-- SETUP_STAGE and EMU_STAGE (R268, R292): each invokes the RL on its source and enters the next state in the same step. -/
def Obligations.StagingStatesInvokeTheLoader : Prop :=
  ∀ s : State, firmwareIdle s →
    (s.mc.state = .setupStage → s.params.commImage.length < 2 ^ 17 →
      mcStep s = { s with
        mc := { s.mc with state := .setupInit }
        db := { s.db with lpEn := false }
        rl := ⟨true, .comm, 0, BitVec.ofNat 17 s.params.commImage.length⟩ } ∧
      (mcStep s).rl.len.toNat = s.params.commImage.length) ∧
    (s.mc.state = .emuStage →
      mcStep s = { s with
        mc := { s.mc with state := .emuWaitExit }
        db := { s.db with evt := .none, lpEn := true }
        rl := ⟨true, .rom, 0, 65536⟩ })

/-- SETUP_INIT (R269, R270): storage is checked first; a missing network degrades but never blocks. -/
def Obligations.SetupInitChecksStorageThenNetwork : Prop :=
  ∀ s : State, firmwareIdle s → s.mc.state = .setupInit →
    (s.draw.present = false →
      mcStep s = { s with
        mc := { s.mc with storageOk := false, lastError := .storageMissing, state := .storageWait }
        db := { s.db with evt := .none, lpEn := true } }) ∧
    (s.draw.present = true → s.draw.connects = true →
      mcStep s = { s with
        mc := { s.mc with storageOk := true, netOk := true, state := .setupLoop }, db := { s.db with lpEn := false } }) ∧
    (s.draw.present = true → s.draw.connects = false →
      mcStep s = { s with
        mc := { s.mc with storageOk := true, netOk := false, lastError := .networkTimeout, state := .setupLoop }
        db := { s.db with lpEn := false } })

/-- The three waits for the operator (R271, R287, R288, R293): what each event does in each, in the order of the rules. That
STORAGE_WAIT leaves STORAGE_OK as it is when it finds storage is the model's choice (log 26). -/
def Obligations.OperatorWaits : Prop :=
  ∀ s : State, firmwareIdle s →
    ((s.mc.state = .storageWait ∨ s.mc.state = .delayWait ∨ s.mc.state = .emuWaitExit) → s.db.evt = .long →
      mcStep s = { s with mc := { s.mc with state := .factoryReset }, db := { s.db with lpEn := false } }) ∧
    (s.mc.state = .storageWait → s.db.evt ≠ .long → s.draw.present = true →
      mcStep s = { s with mc := { s.mc with state := .setupInit }, db := { s.db with lpEn := false } }) ∧
    (s.mc.state = .storageWait → s.db.evt ≠ .long → s.draw.present = false →
      mcStep s = { s with db := { s.db with evt := .none } }) ∧
    (s.mc.state = .delayWait → s.db.evt = .short →
      mcStep s = { s with mc := { s.mc with state := .emuStage }, db := { s.db with evt := .none, lpEn := false } }) ∧
    (s.mc.state = .emuWaitExit → s.db.evt = .short →
      mcStep s = { s with mc := { s.mc with state := .exitPersist }, db := { s.db with evt := .none, lpEn := false } }) ∧
    ((s.mc.state = .delayWait ∨ s.mc.state = .emuWaitExit) → s.db.evt = .none → mcStep s = s)

/-- LAUNCH_CHECK (R278): the extension is what follows the last dot; it is compared after folding A..Z to a..z on both sides, and
nothing is persisted or programmed. -/
def Obligations.LaunchCheckComparesTheExtension : Prop :=
  (∀ base ext : List Byte, (0x2E : Byte) ∉ ext → extension (base ++ 0x2E :: ext) = ext) ∧
  (∀ name : List Byte, (0x2E : Byte) ∉ name → extension name = []) ∧
  (∀ b : Byte, foldCase b = (if 0x41 ≤ b.toNat ∧ b.toNat ≤ 0x5A then BitVec.ofNat 8 (b.toNat + 0x20) else b)) ∧
  ∀ s : State, firmwareIdle s → s.mc.state = .launchCheck →
    ((∃ e ∈ s.params.extAllowList, e.map foldCase = (extension s.mc.pendFile).map foldCase) →
      mcStep s = { s with mc := { s.mc with state := .launchRecord }, db := { s.db with lpEn := false } }) ∧
    (¬(∃ e ∈ s.params.extAllowList, e.map foldCase = (extension s.mc.pendFile).map foldCase) →
      mcStep s = { s with
        mc := { s.mc with state := .setupLoop, lastError := .fileNotEligible }, db := { s.db with lpEn := false } })

/-- LAUNCH_RECORD and LAUNCH_FLASH (R279 to R281, R331): the name is recorded and the request made in one step; its result alone
decides what follows, and an error never writes NV `mode`. -/
def Obligations.LaunchRecordAndFlashResult : Prop :=
  ∀ s : State, firmwareIdle s →
    (s.mc.state = .launchRecord →
      mcStep s = { s with
        mc := { s.mc with state := .launchFlash }
        db := { s.db with lpEn := false }
        nv := { s.nv with file := some s.mc.pendFile }
        fs := ⟨true, none, 0, 0, BitVec.ofNat 32 s.params.stageOff, .ok⟩ }) ∧
    (s.mc.state = .launchFlash → s.fs.result = .ok →
      mcStep s = { s with mc := { s.mc with state := .launchPersist }, db := { s.db with lpEn := false } }) ∧
    (s.mc.state = .launchFlash → s.fs.result ≠ .ok →
      mcStep s = { s with
        mc := { s.mc with state := .setupLoop, lastError := (mcStep s).mc.lastError }, db := { s.db with lpEn := false } } ∧
      (s.fs.result = .storageError → (mcStep s).mc.lastError.code = 0x01) ∧
      (s.fs.result = .alignmentError → (mcStep s).mc.lastError.code = 0x02) ∧
      (s.fs.result = .flashProgramError → (mcStep s).mc.lastError.code = 0x03) ∧
      (s.fs.result = .notEligible → (mcStep s).mc.lastError.code = 0x08))

/-- The four states that write the settings store (R282, R284, R285, R294, R296): what each stores and where it goes. -/
def Obligations.PersistStatesWriteTheStore : Prop :=
  ∀ s : State, firmwareIdle s →
    (s.mc.state = .launchPersist →
      mcStep s = { s with
        nv := { s.nv with mode := some s.mc.pendMode }
        mc := { s.mc with state := .resetReq, resetRequested := true }, db := { s.db with lpEn := false } }) ∧
    (s.mc.state = .handoffPersist →
      mcStep s = { s with
        nv := ⟨some 0xFF, some []⟩
        mc := { s.mc with state := .handedOff, handoff := true }, db := { s.db with lpEn := false } }) ∧
    (s.mc.state = .exitPersist →
      mcStep s = { s with
        nv := ⟨some 0xFF, some []⟩
        mc := { s.mc with state := .resetReq, resetRequested := true }, db := { s.db with lpEn := false } }) ∧
    (s.mc.state = .factoryReset →
      mcStep s = { s with
        nv := ⟨none, none⟩
        mc := { s.mc with state := .resetReq, resetRequested := true }, db := { s.db with lpEn := false } })

/-- No MC step is enabled while the RL or the FS runs (R264), in SETUP_LOOP, or in a terminal state (R265). -/
def Obligations.ModeControllerStandsStill : Prop :=
  ∀ s : State,
    (s.rl.busy = true ∨ s.fs.busy = true ∨ s.mc.state = .setupLoop ∨ s.mc.state = .handedOff ∨ s.mc.state = .resetReq ∨
      s.mc.state = .fatal) →
    mcStep s = s ∧ enabled .mc s = false

/-! ## Whole-machine rules -/

/-- R300: NV `mode` changes only in the step that enters RESET_REQ or HANDED_OFF, from one of the four states that persist. -/
def Obligations.PersistedModeWrittenOnlyBeforeReset : Prop :=
  ∀ s t : State, step s = .next t → t.nv.mode ≠ s.nv.mode →
    (nextTurn s).action = .mc ∧
    ((t.mc.state = .resetReq ∧ (s.mc.state = .launchPersist ∨ s.mc.state = .exitPersist ∨ s.mc.state = .factoryReset)) ∨
      (t.mc.state = .handedOff ∧ s.mc.state = .handoffPersist))

/-- R49, R267: MODE changes only at BOOT, or by a device reset. -/
def Obligations.ModeWrittenOnlyByBoot : Prop :=
  ∀ s t : State, step s = .next t → t.mc.mode ≠ s.mc.mode →
    ((nextTurn s).action = .mc ∧ s.mc.state = .boot) ∨ (nextTurn s).action = .deviceReset

/-- R302: HANDOFF_PERSIST is entered only by the command `handoff`, word 0x0002, in SETUP_LOOP. -/
def Obligations.HandoffOnlyFromSetupLoop : Prop :=
  ∀ s t : State, step s = .next t → s.mc.state ≠ .handoffPersist → t.mc.state = .handoffPersist →
    (nextTurn s).action = .writeCsr 3 0x0002 ∧ s.mc.state = .setupLoop

/-- R229, R31, R113: while the pair is armed, only a device reset writes ARMED, ADDR_HI or a byte of RAM. -/
def Obligations.ArmedImageStaysUntilReset : Prop :=
  ∀ s t : State, s.bus.armed = true → step s = .next t → (nextTurn s).action ≠ .deviceReset →
    t.bus.armed = true ∧ t.bus.addrHi = s.bus.addrHi ∧ ∀ a, ramByte t a = ramByte s a

/-- R299: no step but a device reset leaves FATAL, and FATAL_F stays set. And no run is a faulted one (R387, R388; 60_exceptions.md R334):
a run, which starts at a device reset, never ends by entering FATAL. Its last output signals say how it ends: HANDOFF on entering
HANDED_OFF, RESET_REQUESTED at the reset exactly where it ends reset-requested. -/
def Obligations.FatalLeftOnlyByReset : Prop :=
  (∀ s t : State, s.mc.state = .fatal → s.mc.fatalF = true → step s = .next t →
    (t.mc.state = .fatal ∧ t.mc.fatalF = true) ∨ (nextTurn s).action = .deviceReset) ∧
  ∀ (r : Nat → State) (n : Nat) (e : RunEnd), EndedRun r n e →
    e ≠ .faulted ∧ (runObservation r n e).fatalF = false ∧
    ((runObservation r n e).handoff = true ↔ e = .handedOff) ∧
    ((runObservation r n e).resetRequested = true ↔ e = .resetRequested)

/-- The writers of the bus registers, of FLASH and of the stores (R68, R180, R44): who can change DIR, CTRL, DOUT, CAP; SIG; FLASH;
and that nothing changes the micro-programs. -/
def Obligations.OnlyTheNamedWriters : Prop :=
  ∀ s t : State, step s = .next t →
    ((t.bus.dir ≠ s.bus.dir ∨ t.bus.ctrl ≠ s.bus.ctrl ∨ t.bus.cap ≠ s.bus.cap ∨ t.bus.dout ≠ s.bus.dout) →
      (nextTurn s).action = .seq .br ∨ (nextTurn s).action = .deviceReset) ∧
    (t.bus.sig ≠ s.bus.sig →
      (∃ x, (nextTurn s).action = .seq x) ∨ (nextTurn s).action = .rl ∨ (nextTurn s).action = .deviceReset) ∧
    ((∃ o, flashByte t o ≠ flashByte s o) → (nextTurn s).action = .fs) ∧
    ((∃ a, ramByte t a ≠ ramByte s a) → (nextTurn s).action = .rl ∨ (nextTurn s).action = .deviceReset) ∧
    (t.nv ≠ s.nv → (nextTurn s).action = .mc) ∧
    t.bmProg = s.bmProg ∧ t.brProg = s.brProg ∧ t.params = s.params

/-- The pins (R202, R203, R198): outputs only from UPC 5 to 7, data valid only at UPC 6 and 7, the code RW never; at most one entry
is in flight; a disarmed engine is released and answers no sample. And R191, in every interleaving: while data is valid, a sample
returns the word of the service in progress, the window's halfword at its captured address. -/
def Obligations.PinsFollowTheServicePhase : Prop :=
  ∀ s : State, MachineInv s →
    (s.bus.dir = .output ↔ 5 ≤ s.bus.brUpc.toNat) ∧ (s.bus.ctrl = .nrw ↔ 6 ≤ s.bus.brUpc.toNat) ∧ s.bus.ctrl ≠ .rw ∧
    s.bus.addrFifo.length + s.bus.replyFifo.length ≤ 1 ∧
    (s.bus.armed = false → s.bus.dir = .input ∧ s.bus.ctrl = .nrnw ∧ (hostSees s).answered = false) ∧
    (6 ≤ s.bus.brUpc.toNat → hostSees s = ⟨ramRead16 s s.bus.cap, true⟩)

/-! ## The outside -/

/-- The host's three actions (R100, R101): select a slot that is not selected, deselect one that is, and sample, which returns DOUT
with DIR = OUT and CTRL = NRW and in every other case a draw recorded as no response. None of them changes the block (R109). -/
def Obligations.HostActionsAndSampledWord : Prop :=
  ∀ (s : State) (a : Word16),
    (s.out.cs1 = .high → hostAssert .slot1 a s = { s with out := { s.out with cs1 := .low, addr1 := a } }) ∧
    (s.out.cs2 = .high → hostAssert .slot2 a s = { s with out := { s.out with cs2 := .low, addr2 := a } }) ∧
    (s.out.cs1 = .low → hostDeassert .slot1 s = { s with out := { s.out with cs1 := .high } }) ∧
    (s.out.cs2 = .low → hostDeassert .slot2 s = { s with out := { s.out with cs2 := .high } }) ∧
    (∀ k, csOf k s = .low → hostAssert k a s = s) ∧ (∀ k, csOf k s = .high → hostDeassert k s = s) ∧
    (s.bus.dir = .output ∧ s.bus.ctrl = .nrw →
      hostSample s = { s with out := { s.out with samples := ⟨s.bus.dout, true⟩ :: s.out.samples } }) ∧
    (¬(s.bus.dir = .output ∧ s.bus.ctrl = .nrw) →
      hostSample s = { s with out := { s.out with samples := ⟨s.draw.sample, false⟩ :: s.out.samples } })

/-- The control and status registers (R60 to R65, R67), bit by bit, and that a read changes nothing but the record of what MENU
read (R109), and that a write to any register but CMD is ignored. -/
def Obligations.StatusRegisterViews : Prop :=
  ∀ s : State,
    ((csrValue 0 s).getLsbD 0 = s.bus.armed ∧ (csrValue 0 s).getLsbD 1 = s.bus.sig ∧
      (csrValue 0 s).getLsbD 2 = s.mc.netOk ∧ (csrValue 0 s).getLsbD 3 = s.mc.storageOk ∧
      (csrValue 0 s).getLsbD 4 = s.mc.resetRequested ∧ (csrValue 0 s).getLsbD 5 = s.mc.fatalF ∧
      (csrValue 0 s).getLsbD 6 = s.mc.handoff ∧ (csrValue 0 s).getLsbD 7 = (s.fs.busy || s.rl.busy) ∧
      (csrValue 0 s).extractLsb' 8 8 = s.mc.state.code) ∧
    ((csrValue 1 s).extractLsb' 0 8 = encodeMode s.mc.mode ∧ (csrValue 1 s).extractLsb' 8 8 = 0) ∧
    csrValue 2 s = s.bus.addrHi ∧ csrValue 3 s = 0 ∧
    ((csrValue 4 s).extractLsb' 0 8 = s.mc.lastError.code ∧
      ((csrValue 4 s).getLsbD 8 = true ↔
        (s.mc.state = .launchCheck ∨ s.mc.state = .launchRecord ∨ s.mc.state = .launchFlash ∨ s.mc.state = .launchPersist ∨
          s.mc.state = .handoffPersist)) ∧
      (csrValue 4 s).extractLsb' 9 7 = 0) ∧
    ((csrValue 5 s).getLsbD 0 = s.db.stable ∧ (csrValue 5 s).extractLsb' 1 2 = s.db.evt.code ∧
      (csrValue 5 s).getLsbD 3 = s.db.lpEn ∧ (csrValue 5 s).extractLsb' 4 12 = 0) ∧
    (∀ n : BitVec 4, 6 ≤ n.toNat → csrValue n s = 0) ∧
    (∀ n, readCsr n s = { s with menu := { s.menu with csrData := csrValue n s } }) ∧
    (∀ n w, n ≠ 3 → writeCsr n w s = .next s)

/-- The FNAME port (R66): a write of 1 to FNAME_MAX bytes replaces the name, a longer one is refused, and a read returns it. That an
empty name is refused too is the model's reading (log 16). -/
def Obligations.FilenamePort : Prop :=
  ∀ (s : State) (name : List Byte),
    (1 ≤ name.length → name.length ≤ s.params.fnameMax →
      writeFname name s = .next { s with menu := { s.menu with fname := name } }) ∧
    (s.params.fnameMax < name.length → writeFname name s = .refused .fnameLength) ∧
    readFname s = { s with menu := { s.menu with fnameData := s.menu.fname } }

/-! ## The debouncer -/

/-- R313, R316, R319: a tick whose sample equals STABLE clears CNT and keeps STABLE and EVT; a differing run shorter than
DEBOUNCE_TICKS that ends in such a tick leaves STABLE and EVT as they were. LP_EN and everything outside the debouncer and the
button wire stay. -/
def Obligations.ShortBounceIsFiltered : Prop :=
  ∀ (s : State) (k : Nat), s.params.wf = true → s.db.cnt = 0 → k < s.params.debounceTicks →
    ∃ t, t = ticks (List.replicate k (!s.db.stable) ++ [s.db.stable]) s ∧
      t.db.stable = s.db.stable ∧ t.db.cnt = 0 ∧ t.db.evt = s.db.evt ∧ t.db.lpEn = s.db.lpEn ∧
      t = { s with db := t.db, out := { s.out with button := t.out.button } }

/-- R314, R315: a debounced press that is held for d ticks from its press edge to its release edge leaves HOLDC = min(d, LONG_TICKS)
and the event SHORT when d is below LONG_TICKS, LONG otherwise. Here the raw level is pressed for DEBOUNCE_TICKS + n ticks and then
released for DEBOUNCE_TICKS ticks, so d = n + DEBOUNCE_TICKS. -/
def Obligations.PressClassifiedByHeldTicks : Prop :=
  ∀ (s : State) (n : Nat), s.params.wf = true → s.db.stable = false → s.db.cnt = 0 →
    ∀ d, d = n + s.params.debounceTicks →
      ∃ t, t = ticks (List.replicate (s.params.debounceTicks + n) true ++ List.replicate s.params.debounceTicks false) s ∧
        t.db.stable = false ∧ t.db.cnt = 0 ∧ t.db.holdc.toNat = min d s.params.longTicks ∧
        t.db.evt = (if d < s.params.longTicks then .short else .long) ∧ t.db.lpEn = s.db.lpEn ∧
        t = { s with db := t.db, out := { s.out with button := t.out.button } }

/-! ## Reset -/

/-- DeviceReset (R371, R372): every volatile element at its reset value, FLASH and NV kept, whatever the state was. DOUT and RAM are
any value (R38, R56), so nothing is said of them. That the storage content and the parameters stay is the model's choice (log 14,
log 8). -/
def Obligations.DeviceResetRestoresTheResetTable : Prop :=
  ∀ s : State,
    (deviceReset s).bus.armed = false ∧ (deviceReset s).bus.addrHi = 0 ∧ (deviceReset s).bus.sig = false ∧
    (deviceReset s).bus.bm0 = ⟨0, 0⟩ ∧ (deviceReset s).bus.bm1 = ⟨0, 0⟩ ∧ (deviceReset s).bus.brUpc = 0 ∧
    (deviceReset s).bus.brHold = 0 ∧ (deviceReset s).bus.cap = 0 ∧ (deviceReset s).bus.dir = .input ∧
    (deviceReset s).bus.ctrl = .nrnw ∧ (deviceReset s).bus.addrFifo = [] ∧ (deviceReset s).bus.replyFifo = [] ∧
    (deviceReset s).rl = ⟨false, .comm, 0, 0⟩ ∧ (deviceReset s).fs = ⟨false, none, 0, 0, 0, .ok⟩ ∧
    (deviceReset s).mc = ⟨.boot, .setup, .none, false, false, false, false, false, [], 0⟩ ∧
    (deviceReset s).menu.fname = [] ∧ (deviceReset s).db = ⟨false, 0, 0, .none, false⟩ ∧
    (∀ o, flashByte (deviceReset s) o = flashByte s o) ∧ (deviceReset s).nv = s.nv ∧
    (deviceReset s).params = s.params ∧ (deviceReset s).storage = s.storage

/-- The reset table of R71 at the state after the first reset. -/
def Obligations.ResetStateMatchesTheTable : Prop :=
  State.reset.bus.armed = false ∧ State.reset.bus.addrHi = 0 ∧ State.reset.bus.sig = false ∧
  State.reset.bus.bm0 = ⟨0, 0⟩ ∧ State.reset.bus.bm1 = ⟨0, 0⟩ ∧ State.reset.bus.brUpc = 0 ∧ State.reset.bus.brHold = 0 ∧
  State.reset.bus.cap = 0 ∧ State.reset.bus.dir = .input ∧ State.reset.bus.ctrl = .nrnw ∧
  State.reset.bus.addrFifo = [] ∧ State.reset.bus.replyFifo = [] ∧
  State.reset.rl = ⟨false, .comm, 0, 0⟩ ∧ State.reset.fs = ⟨false, none, 0, 0, 0, .ok⟩ ∧
  State.reset.mc = ⟨.boot, .setup, .none, false, false, false, false, false, [], 0⟩ ∧
  State.reset.menu.fname = [] ∧ State.reset.db = ⟨false, 0, 0, .none, false⟩ ∧
  csrValue 0 State.reset = 0x0000 ∧ csrValue 1 State.reset = 0x00FF ∧ csrValue 2 State.reset = 0x0000 ∧
  csrValue 4 State.reset = 0x0000 ∧ csrValue 5 State.reset = 0x0000

/-! ## Invariants -/

/-- The whole machine's invariant holds at State.reset and right after every device reset, whatever the state before, its programs being
the fixed ones (R375 (2)). -/
def Obligations.InvariantHoldsAtReset : Prop :=
  MachineInv State.reset ∧ afterReset State.reset ∧
  (∀ s : State, s.bmProg = bmProgram → s.brProg = brProgram s.params.settleCycles → afterReset (deviceReset s)) ∧
  ∀ s : State, afterReset s → MachineInv s

/-- Every step keeps the whole machine's invariant, whatever agent or environment action it is. -/
def Obligations.InvariantKeptByEveryStep : Prop :=
  ∀ s t : State, MachineInv s → step s = .next t → MachineInv t

/-- Both memories are in canonical form at reset, and every step keeps it (the form is the model's own). -/
def Obligations.MemoriesStayCanonical : Prop :=
  memoriesWf State.reset = true ∧ ∀ s t : State, memoriesWf s = true → step s = .next t → memoriesWf t = true

/-- Under the invariant and the launch premises no step faults or is refused, if the environment's action is in its domain. -/
def Obligations.EveryStepCompletesUnderTheInvariant : Prop :=
  ∀ s : State, MachineInv s → premises s = true → actionInDomain s.params (nextTurn s).action = true → ∃ t, step s = .next t

/-- R206, the worked example's schedule, for every S, slot and address: from a moment at which an access may begin, the turns of that
schedule, with no other agent between, all complete and give the host the word the window holds at RAM_WIN_BASE + {a[15:1], 0},
whatever the draws. Every other interleaving of a well-timed access is `WellTimedReadReturnsTheWord`. -/
def Obligations.ScheduledReadReturnsTheWord : Prop :=
  ∀ (s : State) (k : Slot) (a : Word16) (rest : List Turn), MachineInv s → premises s = true →
    readyForAccess k s = true →
    s.turns.map (fun u => u.action) = scheduledRead k a s.params.settleCycles.toNat ++ rest.map (fun u => u.action) →
    ∃ t, Sys2Proof.core.run (scheduledRead k a s.params.settleCycles.toNat).length s = .next t ∧
      t.out.samples = ⟨promisedWord s a, true⟩ :: s.out.samples ∧ ∀ b, ramByte t b = ramByte s b

/-- R303, R376: a chip with no persisted mode boots into SETUP: BOOT, SETUP_STAGE, the whole load and its ARM, and SETUP_INIT with
storage present reach SETUP_LOOP with the communication image served, whatever the network answers. -/
def Obligations.BootWithNoModeReachesTheLoop : Prop :=
  ∀ (p : Params) (d : Word16) (file : Option (List Byte)) (files : List StoredFile) (turns : List Turn),
    p.wf = true → storageWf files = true →
    turns.map (fun u => u.action) =
      [.mc, .mc] ++ List.replicate (p.commImage.length + 1) .rl ++ [.mc] →
    (∀ u ∈ turns, u.draw.present = true) →
    ∃ t, Sys2Proof.core.run turns.length { State.launch p d ⟨none, file⟩ files with turns := turns } = .next t ∧
      t.mc.state = .setupLoop ∧ t.mc.mode = .setup ∧ t.bus.armed = true ∧ t.mc.storageOk = true ∧
      ∀ i, i < p.commImage.length → ramByte t (p.ramWinBase.toNat + i) = p.commImage.getD i 0

/-- R104, R200: the sample of a well-timed access, in ANY interleaving that meets (a) to (d), is the word the window holds at
RAM_WIN_BASE + {a[15:1], 0}, answered. The sequence r may begin at any armed state of the invariant; the access lies within one run,
so no device reset comes before its sample (R387). -/
def Obligations.WellTimedReadReturnsTheWord : Prop :=
  ∀ (r : Nat → State) (k : Slot) (a : Word16) (start capture drive sample : Nat),
    MachineInv (r start) → premises (r start) = true → (r start).bus.armed = true →
    (∀ n, start ≤ n → n ≤ sample → step (r n) = .next (r (n + 1)) ∧ (nextTurn (r n)).action ≠ .deviceReset) →
    WellTimed r k a start capture drive sample →
    (r (sample + 1)).out.samples = ⟨promisedWord (r sample) a, true⟩ :: (r sample).out.samples ∧
    promisedWord (r sample) a = promisedWord (r start) a

end
end

