-- ==== Sys2Proof/Laws/State.lean ====
section
/-! SUPPORT. What every update leaves alone and what it writes: for each update of State, one equation a field, true by rfl and in
the simp set (a conjunction tagged @[simp] gives simp one equation for each of its parts). No proof needs to unfold an update. -/

namespace Sys2Proof.Machine

open Sys2Proof

@[simp] theorem pushAddr_rest (v : Word32) (s : State) :
       (pushAddr v s).params = s.params ∧ (pushAddr v s).bmProg = s.bmProg ∧ (pushAddr v s).brProg = s.brProg ∧
    (pushAddr v s).rl = s.rl ∧ (pushAddr v s).fs = s.fs ∧ (pushAddr v s).mc = s.mc ∧ (pushAddr v s).menu = s.menu ∧
    (pushAddr v s).db = s.db ∧ (pushAddr v s).ram = s.ram ∧ (pushAddr v s).flash = s.flash ∧
    (pushAddr v s).flashBlank = s.flashBlank ∧ (pushAddr v s).nv = s.nv ∧ (pushAddr v s).storage = s.storage ∧
    (pushAddr v s).out = s.out ∧ (pushAddr v s).turns = s.turns ∧ (pushAddr v s).steps = s.steps ∧
    (pushAddr v s).draw = s.draw ∧ (pushAddr v s).resets = s.resets ∧ (pushAddr v s).active = s.active :=
  ⟨rfl, rfl, rfl, rfl, rfl, rfl, rfl, rfl, rfl, rfl, rfl, rfl, rfl, rfl, rfl, rfl, rfl, rfl, rfl⟩

@[simp] theorem pushAddr_bus (v : Word32) (s : State) :
    (pushAddr v s).bus = { s.bus with addrFifo := s.bus.addrFifo ++ [v] } := rfl

@[simp] theorem popAddr_rest (s : State) :
       (popAddr s).params = s.params ∧ (popAddr s).bmProg = s.bmProg ∧ (popAddr s).brProg = s.brProg ∧ (popAddr s).rl = s.rl ∧
    (popAddr s).fs = s.fs ∧ (popAddr s).mc = s.mc ∧ (popAddr s).menu = s.menu ∧ (popAddr s).db = s.db ∧
    (popAddr s).ram = s.ram ∧ (popAddr s).flash = s.flash ∧ (popAddr s).flashBlank = s.flashBlank ∧ (popAddr s).nv = s.nv ∧
    (popAddr s).storage = s.storage ∧ (popAddr s).out = s.out ∧ (popAddr s).turns = s.turns ∧ (popAddr s).steps = s.steps ∧
    (popAddr s).draw = s.draw ∧ (popAddr s).resets = s.resets ∧ (popAddr s).active = s.active :=
  ⟨rfl, rfl, rfl, rfl, rfl, rfl, rfl, rfl, rfl, rfl, rfl, rfl, rfl, rfl, rfl, rfl, rfl, rfl, rfl⟩

@[simp] theorem popAddr_bus (s : State) :
    (popAddr s).bus = { s.bus with addrFifo := s.bus.addrFifo.tail } := rfl

@[simp] theorem pushReply_rest (v : Word16) (s : State) :
       (pushReply v s).params = s.params ∧ (pushReply v s).bmProg = s.bmProg ∧ (pushReply v s).brProg = s.brProg ∧
    (pushReply v s).rl = s.rl ∧ (pushReply v s).fs = s.fs ∧ (pushReply v s).mc = s.mc ∧ (pushReply v s).menu = s.menu ∧
    (pushReply v s).db = s.db ∧ (pushReply v s).ram = s.ram ∧ (pushReply v s).flash = s.flash ∧
    (pushReply v s).flashBlank = s.flashBlank ∧ (pushReply v s).nv = s.nv ∧ (pushReply v s).storage = s.storage ∧
    (pushReply v s).out = s.out ∧ (pushReply v s).turns = s.turns ∧ (pushReply v s).steps = s.steps ∧
    (pushReply v s).draw = s.draw ∧ (pushReply v s).resets = s.resets ∧ (pushReply v s).active = s.active :=
  ⟨rfl, rfl, rfl, rfl, rfl, rfl, rfl, rfl, rfl, rfl, rfl, rfl, rfl, rfl, rfl, rfl, rfl, rfl, rfl⟩

@[simp] theorem pushReply_bus (v : Word16) (s : State) :
    (pushReply v s).bus = { s.bus with replyFifo := s.bus.replyFifo ++ [v] } := rfl

@[simp] theorem popReply_rest (s : State) :
       (popReply s).params = s.params ∧ (popReply s).bmProg = s.bmProg ∧ (popReply s).brProg = s.brProg ∧
    (popReply s).rl = s.rl ∧ (popReply s).fs = s.fs ∧ (popReply s).mc = s.mc ∧ (popReply s).menu = s.menu ∧
    (popReply s).db = s.db ∧ (popReply s).ram = s.ram ∧ (popReply s).flash = s.flash ∧ (popReply s).flashBlank = s.flashBlank ∧
    (popReply s).nv = s.nv ∧ (popReply s).storage = s.storage ∧ (popReply s).out = s.out ∧ (popReply s).turns = s.turns ∧
    (popReply s).steps = s.steps ∧ (popReply s).draw = s.draw ∧ (popReply s).resets = s.resets ∧ (popReply s).active = s.active :=
  ⟨rfl, rfl, rfl, rfl, rfl, rfl, rfl, rfl, rfl, rfl, rfl, rfl, rfl, rfl, rfl, rfl, rfl, rfl, rfl⟩

@[simp] theorem popReply_bus (s : State) :
    (popReply s).bus = { s.bus with replyFifo := s.bus.replyFifo.tail } := rfl

@[simp] theorem raiseSig_rest (s : State) :
       (raiseSig s).params = s.params ∧ (raiseSig s).bmProg = s.bmProg ∧ (raiseSig s).brProg = s.brProg ∧
    (raiseSig s).rl = s.rl ∧ (raiseSig s).fs = s.fs ∧ (raiseSig s).mc = s.mc ∧ (raiseSig s).menu = s.menu ∧
    (raiseSig s).db = s.db ∧ (raiseSig s).ram = s.ram ∧ (raiseSig s).flash = s.flash ∧ (raiseSig s).flashBlank = s.flashBlank ∧
    (raiseSig s).nv = s.nv ∧ (raiseSig s).storage = s.storage ∧ (raiseSig s).out = s.out ∧ (raiseSig s).turns = s.turns ∧
    (raiseSig s).steps = s.steps ∧ (raiseSig s).draw = s.draw ∧ (raiseSig s).resets = s.resets ∧ (raiseSig s).active = s.active :=
  ⟨rfl, rfl, rfl, rfl, rfl, rfl, rfl, rfl, rfl, rfl, rfl, rfl, rfl, rfl, rfl, rfl, rfl, rfl, rfl⟩

@[simp] theorem raiseSig_bus (s : State) :
    (raiseSig s).bus = { s.bus with sig := true } := rfl

@[simp] theorem clearSig_rest (s : State) :
       (clearSig s).params = s.params ∧ (clearSig s).bmProg = s.bmProg ∧ (clearSig s).brProg = s.brProg ∧
    (clearSig s).rl = s.rl ∧ (clearSig s).fs = s.fs ∧ (clearSig s).mc = s.mc ∧ (clearSig s).menu = s.menu ∧
    (clearSig s).db = s.db ∧ (clearSig s).ram = s.ram ∧ (clearSig s).flash = s.flash ∧ (clearSig s).flashBlank = s.flashBlank ∧
    (clearSig s).nv = s.nv ∧ (clearSig s).storage = s.storage ∧ (clearSig s).out = s.out ∧ (clearSig s).turns = s.turns ∧
    (clearSig s).steps = s.steps ∧ (clearSig s).draw = s.draw ∧ (clearSig s).resets = s.resets ∧ (clearSig s).active = s.active :=
  ⟨rfl, rfl, rfl, rfl, rfl, rfl, rfl, rfl, rfl, rfl, rfl, rfl, rfl, rfl, rfl, rfl, rfl, rfl, rfl⟩

@[simp] theorem clearSig_bus (s : State) :
    (clearSig s).bus = { s.bus with sig := false } := rfl

@[simp] theorem captureAction_rest (c : Word32) (s : State) :
       (captureAction c s).params = s.params ∧ (captureAction c s).bmProg = s.bmProg ∧ (captureAction c s).brProg = s.brProg ∧
    (captureAction c s).rl = s.rl ∧ (captureAction c s).fs = s.fs ∧ (captureAction c s).mc = s.mc ∧
    (captureAction c s).menu = s.menu ∧ (captureAction c s).db = s.db ∧ (captureAction c s).ram = s.ram ∧
    (captureAction c s).flash = s.flash ∧ (captureAction c s).flashBlank = s.flashBlank ∧ (captureAction c s).nv = s.nv ∧
    (captureAction c s).storage = s.storage ∧ (captureAction c s).out = s.out ∧ (captureAction c s).turns = s.turns ∧
    (captureAction c s).steps = s.steps ∧ (captureAction c s).draw = s.draw ∧ (captureAction c s).resets = s.resets ∧
    (captureAction c s).active = s.active :=
  ⟨rfl, rfl, rfl, rfl, rfl, rfl, rfl, rfl, rfl, rfl, rfl, rfl, rfl, rfl, rfl, rfl, rfl, rfl, rfl⟩

@[simp] theorem captureAction_bus (c : Word32) (s : State) :
    (captureAction c s).bus = { s.bus with cap := c, addrFifo := s.bus.addrFifo ++ [c] } := rfl

@[simp] theorem driveAction_rest (w : Word16) (s : State) :
       (driveAction w s).params = s.params ∧ (driveAction w s).bmProg = s.bmProg ∧ (driveAction w s).brProg = s.brProg ∧
    (driveAction w s).rl = s.rl ∧ (driveAction w s).fs = s.fs ∧ (driveAction w s).mc = s.mc ∧ (driveAction w s).menu = s.menu ∧
    (driveAction w s).db = s.db ∧ (driveAction w s).ram = s.ram ∧ (driveAction w s).flash = s.flash ∧
    (driveAction w s).flashBlank = s.flashBlank ∧ (driveAction w s).nv = s.nv ∧ (driveAction w s).storage = s.storage ∧
    (driveAction w s).out = s.out ∧ (driveAction w s).turns = s.turns ∧ (driveAction w s).steps = s.steps ∧
    (driveAction w s).draw = s.draw ∧ (driveAction w s).resets = s.resets ∧ (driveAction w s).active = s.active :=
  ⟨rfl, rfl, rfl, rfl, rfl, rfl, rfl, rfl, rfl, rfl, rfl, rfl, rfl, rfl, rfl, rfl, rfl, rfl, rfl⟩

@[simp] theorem driveAction_bus (w : Word16) (s : State) :
    (driveAction w s).bus = { s.bus with dout := w, replyFifo := s.bus.replyFifo.tail } := rfl

@[simp] theorem ramWrite_rest (a : Word32) (v : Byte) (s : State) :
       (ramWrite a v s).params = s.params ∧ (ramWrite a v s).bmProg = s.bmProg ∧ (ramWrite a v s).brProg = s.brProg ∧
    (ramWrite a v s).bus = s.bus ∧ (ramWrite a v s).rl = s.rl ∧ (ramWrite a v s).fs = s.fs ∧ (ramWrite a v s).mc = s.mc ∧
    (ramWrite a v s).menu = s.menu ∧ (ramWrite a v s).db = s.db ∧ (ramWrite a v s).flash = s.flash ∧
    (ramWrite a v s).flashBlank = s.flashBlank ∧ (ramWrite a v s).nv = s.nv ∧ (ramWrite a v s).storage = s.storage ∧
    (ramWrite a v s).out = s.out ∧ (ramWrite a v s).turns = s.turns ∧ (ramWrite a v s).steps = s.steps ∧
    (ramWrite a v s).draw = s.draw ∧ (ramWrite a v s).resets = s.resets ∧ (ramWrite a v s).active = s.active :=
  ⟨rfl, rfl, rfl, rfl, rfl, rfl, rfl, rfl, rfl, rfl, rfl, rfl, rfl, rfl, rfl, rfl, rfl, rfl, rfl⟩

@[simp] theorem ramWrite_ram (a : Word32) (v : Byte) (s : State) :
    (ramWrite a v s).ram = Memory.write s.ram a.toNat v := rfl

@[simp] theorem flashSpoil_rest (o : Nat) (s : State) :
       (flashSpoil o s).params = s.params ∧ (flashSpoil o s).bmProg = s.bmProg ∧ (flashSpoil o s).brProg = s.brProg ∧
    (flashSpoil o s).bus = s.bus ∧ (flashSpoil o s).rl = s.rl ∧ (flashSpoil o s).fs = s.fs ∧ (flashSpoil o s).mc = s.mc ∧
    (flashSpoil o s).menu = s.menu ∧ (flashSpoil o s).db = s.db ∧ (flashSpoil o s).ram = s.ram ∧
    (flashSpoil o s).flashBlank = s.flashBlank ∧ (flashSpoil o s).nv = s.nv ∧ (flashSpoil o s).storage = s.storage ∧
    (flashSpoil o s).out = s.out ∧ (flashSpoil o s).turns = s.turns ∧ (flashSpoil o s).steps = s.steps ∧
    (flashSpoil o s).draw = s.draw ∧ (flashSpoil o s).resets = s.resets ∧ (flashSpoil o s).active = s.active :=
  ⟨rfl, rfl, rfl, rfl, rfl, rfl, rfl, rfl, rfl, rfl, rfl, rfl, rfl, rfl, rfl, rfl, rfl, rfl, rfl⟩

@[simp] theorem nvSetMode_rest (c : Byte) (s : State) :
       (nvSetMode c s).params = s.params ∧ (nvSetMode c s).bmProg = s.bmProg ∧ (nvSetMode c s).brProg = s.brProg ∧
    (nvSetMode c s).bus = s.bus ∧ (nvSetMode c s).rl = s.rl ∧ (nvSetMode c s).fs = s.fs ∧ (nvSetMode c s).mc = s.mc ∧
    (nvSetMode c s).menu = s.menu ∧ (nvSetMode c s).db = s.db ∧ (nvSetMode c s).ram = s.ram ∧ (nvSetMode c s).flash = s.flash ∧
    (nvSetMode c s).flashBlank = s.flashBlank ∧ (nvSetMode c s).storage = s.storage ∧ (nvSetMode c s).out = s.out ∧
    (nvSetMode c s).turns = s.turns ∧ (nvSetMode c s).steps = s.steps ∧ (nvSetMode c s).draw = s.draw ∧
    (nvSetMode c s).resets = s.resets ∧ (nvSetMode c s).active = s.active :=
  ⟨rfl, rfl, rfl, rfl, rfl, rfl, rfl, rfl, rfl, rfl, rfl, rfl, rfl, rfl, rfl, rfl, rfl, rfl, rfl⟩

@[simp] theorem nvSetMode_nv (c : Byte) (s : State) :
    (nvSetMode c s).nv = { s.nv with mode := some c } := rfl

@[simp] theorem nvSetFile_rest (name : List Byte) (s : State) :
       (nvSetFile name s).params = s.params ∧ (nvSetFile name s).bmProg = s.bmProg ∧ (nvSetFile name s).brProg = s.brProg ∧
    (nvSetFile name s).bus = s.bus ∧ (nvSetFile name s).rl = s.rl ∧ (nvSetFile name s).fs = s.fs ∧
    (nvSetFile name s).mc = s.mc ∧ (nvSetFile name s).menu = s.menu ∧ (nvSetFile name s).db = s.db ∧
    (nvSetFile name s).ram = s.ram ∧ (nvSetFile name s).flash = s.flash ∧ (nvSetFile name s).flashBlank = s.flashBlank ∧
    (nvSetFile name s).storage = s.storage ∧ (nvSetFile name s).out = s.out ∧ (nvSetFile name s).turns = s.turns ∧
    (nvSetFile name s).steps = s.steps ∧ (nvSetFile name s).draw = s.draw ∧ (nvSetFile name s).resets = s.resets ∧
    (nvSetFile name s).active = s.active :=
  ⟨rfl, rfl, rfl, rfl, rfl, rfl, rfl, rfl, rfl, rfl, rfl, rfl, rfl, rfl, rfl, rfl, rfl, rfl, rfl⟩

@[simp] theorem nvSetFile_nv (name : List Byte) (s : State) :
    (nvSetFile name s).nv = { s.nv with file := some name } := rfl

@[simp] theorem nvEraseMode_rest (s : State) :
       (nvEraseMode s).params = s.params ∧ (nvEraseMode s).bmProg = s.bmProg ∧ (nvEraseMode s).brProg = s.brProg ∧
    (nvEraseMode s).bus = s.bus ∧ (nvEraseMode s).rl = s.rl ∧ (nvEraseMode s).fs = s.fs ∧ (nvEraseMode s).mc = s.mc ∧
    (nvEraseMode s).menu = s.menu ∧ (nvEraseMode s).db = s.db ∧ (nvEraseMode s).ram = s.ram ∧ (nvEraseMode s).flash = s.flash ∧
    (nvEraseMode s).flashBlank = s.flashBlank ∧ (nvEraseMode s).storage = s.storage ∧ (nvEraseMode s).out = s.out ∧
    (nvEraseMode s).turns = s.turns ∧ (nvEraseMode s).steps = s.steps ∧ (nvEraseMode s).draw = s.draw ∧
    (nvEraseMode s).resets = s.resets ∧ (nvEraseMode s).active = s.active :=
  ⟨rfl, rfl, rfl, rfl, rfl, rfl, rfl, rfl, rfl, rfl, rfl, rfl, rfl, rfl, rfl, rfl, rfl, rfl, rfl⟩

@[simp] theorem nvEraseMode_nv (s : State) :
    (nvEraseMode s).nv = { s.nv with mode := none } := rfl

@[simp] theorem nvEraseFile_rest (s : State) :
       (nvEraseFile s).params = s.params ∧ (nvEraseFile s).bmProg = s.bmProg ∧ (nvEraseFile s).brProg = s.brProg ∧
    (nvEraseFile s).bus = s.bus ∧ (nvEraseFile s).rl = s.rl ∧ (nvEraseFile s).fs = s.fs ∧ (nvEraseFile s).mc = s.mc ∧
    (nvEraseFile s).menu = s.menu ∧ (nvEraseFile s).db = s.db ∧ (nvEraseFile s).ram = s.ram ∧ (nvEraseFile s).flash = s.flash ∧
    (nvEraseFile s).flashBlank = s.flashBlank ∧ (nvEraseFile s).storage = s.storage ∧ (nvEraseFile s).out = s.out ∧
    (nvEraseFile s).turns = s.turns ∧ (nvEraseFile s).steps = s.steps ∧ (nvEraseFile s).draw = s.draw ∧
    (nvEraseFile s).resets = s.resets ∧ (nvEraseFile s).active = s.active :=
  ⟨rfl, rfl, rfl, rfl, rfl, rfl, rfl, rfl, rfl, rfl, rfl, rfl, rfl, rfl, rfl, rfl, rfl, rfl, rfl⟩

@[simp] theorem nvEraseFile_nv (s : State) :
    (nvEraseFile s).nv = { s.nv with file := none } := rfl

@[simp] theorem recordError_rest (e : ErrorCode) (s : State) :
       (recordError e s).params = s.params ∧ (recordError e s).bmProg = s.bmProg ∧ (recordError e s).brProg = s.brProg ∧
    (recordError e s).bus = s.bus ∧ (recordError e s).rl = s.rl ∧ (recordError e s).fs = s.fs ∧
    (recordError e s).menu = s.menu ∧ (recordError e s).db = s.db ∧ (recordError e s).ram = s.ram ∧
    (recordError e s).flash = s.flash ∧ (recordError e s).flashBlank = s.flashBlank ∧ (recordError e s).nv = s.nv ∧
    (recordError e s).storage = s.storage ∧ (recordError e s).out = s.out ∧ (recordError e s).turns = s.turns ∧
    (recordError e s).steps = s.steps ∧ (recordError e s).draw = s.draw ∧ (recordError e s).resets = s.resets ∧
    (recordError e s).active = s.active :=
  ⟨rfl, rfl, rfl, rfl, rfl, rfl, rfl, rfl, rfl, rfl, rfl, rfl, rfl, rfl, rfl, rfl, rfl, rfl, rfl⟩

@[simp] theorem recordError_mc (e : ErrorCode) (s : State) :
    (recordError e s).mc = { s.mc with lastError := e } := rfl

@[simp] theorem setEvent_rest (e : Event) (s : State) :
       (setEvent e s).params = s.params ∧ (setEvent e s).bmProg = s.bmProg ∧ (setEvent e s).brProg = s.brProg ∧
    (setEvent e s).bus = s.bus ∧ (setEvent e s).rl = s.rl ∧ (setEvent e s).fs = s.fs ∧ (setEvent e s).mc = s.mc ∧
    (setEvent e s).menu = s.menu ∧ (setEvent e s).ram = s.ram ∧ (setEvent e s).flash = s.flash ∧
    (setEvent e s).flashBlank = s.flashBlank ∧ (setEvent e s).nv = s.nv ∧ (setEvent e s).storage = s.storage ∧
    (setEvent e s).out = s.out ∧ (setEvent e s).turns = s.turns ∧ (setEvent e s).steps = s.steps ∧
    (setEvent e s).draw = s.draw ∧ (setEvent e s).resets = s.resets ∧ (setEvent e s).active = s.active :=
  ⟨rfl, rfl, rfl, rfl, rfl, rfl, rfl, rfl, rfl, rfl, rfl, rfl, rfl, rfl, rfl, rfl, rfl, rfl, rfl⟩

@[simp] theorem setEvent_db (e : Event) (s : State) :
    (setEvent e s).db = { s.db with evt := e } := rfl

@[simp] theorem enter_rest (t : McState) (s : State) :
       (enter t s).params = s.params ∧ (enter t s).bmProg = s.bmProg ∧ (enter t s).brProg = s.brProg ∧ (enter t s).bus = s.bus ∧
    (enter t s).rl = s.rl ∧ (enter t s).fs = s.fs ∧ (enter t s).menu = s.menu ∧ (enter t s).ram = s.ram ∧
    (enter t s).flash = s.flash ∧ (enter t s).flashBlank = s.flashBlank ∧ (enter t s).nv = s.nv ∧
    (enter t s).storage = s.storage ∧ (enter t s).out = s.out ∧ (enter t s).turns = s.turns ∧ (enter t s).steps = s.steps ∧
    (enter t s).draw = s.draw ∧ (enter t s).resets = s.resets ∧ (enter t s).active = s.active :=
  ⟨rfl, rfl, rfl, rfl, rfl, rfl, rfl, rfl, rfl, rfl, rfl, rfl, rfl, rfl, rfl, rfl, rfl, rfl⟩

@[simp] theorem enter_mc (t : McState) (s : State) :
    (enter t s).mc = { s.mc with state := t, resetRequested := s.mc.resetRequested || t == .resetReq, handoff := s.mc.handoff || t == .handedOff, fatalF := s.mc.fatalF || t == .fatal } := rfl

@[simp] theorem enter_db (t : McState) (s : State) :
    (enter t s).db = { s.db with evt := if t.isWait then .none else s.db.evt, lpEn := t.isWait } := rfl

@[simp] theorem fatal_rest (e : ErrorCode) (s : State) :
       (fatal e s).params = s.params ∧ (fatal e s).bmProg = s.bmProg ∧ (fatal e s).brProg = s.brProg ∧ (fatal e s).bus = s.bus ∧
    (fatal e s).menu = s.menu ∧ (fatal e s).ram = s.ram ∧ (fatal e s).flash = s.flash ∧ (fatal e s).flashBlank = s.flashBlank ∧
    (fatal e s).nv = s.nv ∧ (fatal e s).storage = s.storage ∧ (fatal e s).out = s.out ∧ (fatal e s).turns = s.turns ∧
    (fatal e s).steps = s.steps ∧ (fatal e s).draw = s.draw ∧ (fatal e s).resets = s.resets ∧ (fatal e s).active = s.active :=
  ⟨rfl, rfl, rfl, rfl, rfl, rfl, rfl, rfl, rfl, rfl, rfl, rfl, rfl, rfl, rfl, rfl⟩

@[simp] theorem fatal_mc (e : ErrorCode) (s : State) :
    (fatal e s).mc = { s.mc with lastError := e, fatalF := true, state := .fatal } := rfl

@[simp] theorem fatal_db (e : ErrorCode) (s : State) :
    (fatal e s).db = { s.db with lpEn := false } := rfl

@[simp] theorem fatal_rl (e : ErrorCode) (s : State) :
    (fatal e s).rl = { s.rl with busy := false } := rfl

@[simp] theorem fatal_fs (e : ErrorCode) (s : State) :
    (fatal e s).fs = { s.fs with busy := false } := rfl

@[simp] theorem fsFinish_rest (r : FsResult) (s : State) :
       (fsFinish r s).params = s.params ∧ (fsFinish r s).bmProg = s.bmProg ∧ (fsFinish r s).brProg = s.brProg ∧
    (fsFinish r s).bus = s.bus ∧ (fsFinish r s).rl = s.rl ∧ (fsFinish r s).mc = s.mc ∧ (fsFinish r s).menu = s.menu ∧
    (fsFinish r s).db = s.db ∧ (fsFinish r s).ram = s.ram ∧ (fsFinish r s).flash = s.flash ∧
    (fsFinish r s).flashBlank = s.flashBlank ∧ (fsFinish r s).nv = s.nv ∧ (fsFinish r s).storage = s.storage ∧
    (fsFinish r s).out = s.out ∧ (fsFinish r s).turns = s.turns ∧ (fsFinish r s).steps = s.steps ∧
    (fsFinish r s).draw = s.draw ∧ (fsFinish r s).resets = s.resets ∧ (fsFinish r s).active = s.active :=
  ⟨rfl, rfl, rfl, rfl, rfl, rfl, rfl, rfl, rfl, rfl, rfl, rfl, rfl, rfl, rfl, rfl, rfl, rfl, rfl⟩

@[simp] theorem fsFinish_fs (r : FsResult) (s : State) :
    (fsFinish r s).fs = { s.fs with result := r, handle := none, busy := false } := rfl

@[simp] theorem fsSetPos_rest (n : Nat) (s : State) :
       (fsSetPos n s).params = s.params ∧ (fsSetPos n s).bmProg = s.bmProg ∧ (fsSetPos n s).brProg = s.brProg ∧
    (fsSetPos n s).bus = s.bus ∧ (fsSetPos n s).rl = s.rl ∧ (fsSetPos n s).mc = s.mc ∧ (fsSetPos n s).menu = s.menu ∧
    (fsSetPos n s).db = s.db ∧ (fsSetPos n s).ram = s.ram ∧ (fsSetPos n s).flash = s.flash ∧
    (fsSetPos n s).flashBlank = s.flashBlank ∧ (fsSetPos n s).nv = s.nv ∧ (fsSetPos n s).storage = s.storage ∧
    (fsSetPos n s).out = s.out ∧ (fsSetPos n s).turns = s.turns ∧ (fsSetPos n s).steps = s.steps ∧
    (fsSetPos n s).draw = s.draw ∧ (fsSetPos n s).resets = s.resets ∧ (fsSetPos n s).active = s.active :=
  ⟨rfl, rfl, rfl, rfl, rfl, rfl, rfl, rfl, rfl, rfl, rfl, rfl, rfl, rfl, rfl, rfl, rfl, rfl, rfl⟩

@[simp] theorem fsSetPos_fs (n : Nat) (s : State) :
    (fsSetPos n s).fs = { s.fs with pos := BitVec.ofNat 32 n } := rfl

@[simp] theorem hostSample_rest (s : State) :
       (hostSample s).params = s.params ∧ (hostSample s).bmProg = s.bmProg ∧ (hostSample s).brProg = s.brProg ∧
    (hostSample s).bus = s.bus ∧ (hostSample s).rl = s.rl ∧ (hostSample s).fs = s.fs ∧ (hostSample s).mc = s.mc ∧
    (hostSample s).menu = s.menu ∧ (hostSample s).db = s.db ∧ (hostSample s).ram = s.ram ∧ (hostSample s).flash = s.flash ∧
    (hostSample s).flashBlank = s.flashBlank ∧ (hostSample s).nv = s.nv ∧ (hostSample s).storage = s.storage ∧
    (hostSample s).turns = s.turns ∧ (hostSample s).steps = s.steps ∧ (hostSample s).draw = s.draw ∧
    (hostSample s).resets = s.resets ∧ (hostSample s).active = s.active :=
  ⟨rfl, rfl, rfl, rfl, rfl, rfl, rfl, rfl, rfl, rfl, rfl, rfl, rfl, rfl, rfl, rfl, rfl, rfl, rfl⟩

@[simp] theorem hostSample_out (s : State) :
    (hostSample s).out = { s.out with samples := hostSees s :: s.out.samples } := rfl

@[simp] theorem setButton_rest (l : Level) (s : State) :
       (setButton l s).params = s.params ∧ (setButton l s).bmProg = s.bmProg ∧ (setButton l s).brProg = s.brProg ∧
    (setButton l s).bus = s.bus ∧ (setButton l s).rl = s.rl ∧ (setButton l s).fs = s.fs ∧ (setButton l s).mc = s.mc ∧
    (setButton l s).menu = s.menu ∧ (setButton l s).db = s.db ∧ (setButton l s).ram = s.ram ∧ (setButton l s).flash = s.flash ∧
    (setButton l s).flashBlank = s.flashBlank ∧ (setButton l s).nv = s.nv ∧ (setButton l s).storage = s.storage ∧
    (setButton l s).turns = s.turns ∧ (setButton l s).steps = s.steps ∧ (setButton l s).draw = s.draw ∧
    (setButton l s).resets = s.resets ∧ (setButton l s).active = s.active :=
  ⟨rfl, rfl, rfl, rfl, rfl, rfl, rfl, rfl, rfl, rfl, rfl, rfl, rfl, rfl, rfl, rfl, rfl, rfl, rfl⟩

@[simp] theorem setButton_out (l : Level) (s : State) :
    (setButton l s).out = { s.out with button := l } := rfl

@[simp] theorem readFname_rest (s : State) :
       (readFname s).params = s.params ∧ (readFname s).bmProg = s.bmProg ∧ (readFname s).brProg = s.brProg ∧
    (readFname s).bus = s.bus ∧ (readFname s).rl = s.rl ∧ (readFname s).fs = s.fs ∧ (readFname s).mc = s.mc ∧
    (readFname s).db = s.db ∧ (readFname s).ram = s.ram ∧ (readFname s).flash = s.flash ∧
    (readFname s).flashBlank = s.flashBlank ∧ (readFname s).nv = s.nv ∧ (readFname s).storage = s.storage ∧
    (readFname s).out = s.out ∧ (readFname s).turns = s.turns ∧ (readFname s).steps = s.steps ∧ (readFname s).draw = s.draw ∧
    (readFname s).resets = s.resets ∧ (readFname s).active = s.active :=
  ⟨rfl, rfl, rfl, rfl, rfl, rfl, rfl, rfl, rfl, rfl, rfl, rfl, rfl, rfl, rfl, rfl, rfl, rfl, rfl⟩

@[simp] theorem readFname_menu (s : State) :
    (readFname s).menu = { s.menu with fnameData := s.menu.fname } := rfl

@[simp] theorem readCsr_rest (n : BitVec 4) (s : State) :
       (readCsr n s).params = s.params ∧ (readCsr n s).bmProg = s.bmProg ∧ (readCsr n s).brProg = s.brProg ∧
    (readCsr n s).bus = s.bus ∧ (readCsr n s).rl = s.rl ∧ (readCsr n s).fs = s.fs ∧ (readCsr n s).mc = s.mc ∧
    (readCsr n s).db = s.db ∧ (readCsr n s).ram = s.ram ∧ (readCsr n s).flash = s.flash ∧
    (readCsr n s).flashBlank = s.flashBlank ∧ (readCsr n s).nv = s.nv ∧ (readCsr n s).storage = s.storage ∧
    (readCsr n s).out = s.out ∧ (readCsr n s).turns = s.turns ∧ (readCsr n s).steps = s.steps ∧ (readCsr n s).draw = s.draw ∧
    (readCsr n s).resets = s.resets ∧ (readCsr n s).active = s.active :=
  ⟨rfl, rfl, rfl, rfl, rfl, rfl, rfl, rfl, rfl, rfl, rfl, rfl, rfl, rfl, rfl, rfl, rfl, rfl, rfl⟩

@[simp] theorem readCsr_menu (n : BitVec 4) (s : State) :
    (readCsr n s).menu = { s.menu with csrData := csrValue n s } := rfl

@[simp] theorem takeTurn_rest (s : State) :
       (takeTurn s).params = s.params ∧ (takeTurn s).bmProg = s.bmProg ∧ (takeTurn s).brProg = s.brProg ∧
    (takeTurn s).bus = s.bus ∧ (takeTurn s).rl = s.rl ∧ (takeTurn s).fs = s.fs ∧ (takeTurn s).mc = s.mc ∧
    (takeTurn s).menu = s.menu ∧ (takeTurn s).db = s.db ∧ (takeTurn s).ram = s.ram ∧ (takeTurn s).flash = s.flash ∧
    (takeTurn s).flashBlank = s.flashBlank ∧ (takeTurn s).nv = s.nv ∧ (takeTurn s).storage = s.storage ∧
    (takeTurn s).out = s.out ∧ (takeTurn s).resets = s.resets ∧ (takeTurn s).active = s.active :=
  ⟨rfl, rfl, rfl, rfl, rfl, rfl, rfl, rfl, rfl, rfl, rfl, rfl, rfl, rfl, rfl, rfl, rfl⟩

@[simp] theorem takeTurn_turns (s : State) :
    (takeTurn s).turns = s.turns.tail := rfl

@[simp] theorem takeTurn_steps (s : State) :
    (takeTurn s).steps = s.steps + 1 := rfl

@[simp] theorem takeTurn_draw (s : State) :
    (takeTurn s).draw = (nextTurn s).draw := rfl

@[simp] theorem scheduleNext_rest (a : Action) (s : State) :
       (scheduleNext a s).params = s.params ∧ (scheduleNext a s).bmProg = s.bmProg ∧ (scheduleNext a s).brProg = s.brProg ∧
    (scheduleNext a s).bus = s.bus ∧ (scheduleNext a s).rl = s.rl ∧ (scheduleNext a s).fs = s.fs ∧
    (scheduleNext a s).mc = s.mc ∧ (scheduleNext a s).menu = s.menu ∧ (scheduleNext a s).db = s.db ∧
    (scheduleNext a s).ram = s.ram ∧ (scheduleNext a s).flash = s.flash ∧ (scheduleNext a s).flashBlank = s.flashBlank ∧
    (scheduleNext a s).nv = s.nv ∧ (scheduleNext a s).storage = s.storage ∧ (scheduleNext a s).out = s.out ∧
    (scheduleNext a s).steps = s.steps ∧ (scheduleNext a s).draw = s.draw ∧ (scheduleNext a s).resets = s.resets ∧
    (scheduleNext a s).active = s.active :=
  ⟨rfl, rfl, rfl, rfl, rfl, rfl, rfl, rfl, rfl, rfl, rfl, rfl, rfl, rfl, rfl, rfl, rfl, rfl, rfl⟩

@[simp] theorem scheduleNext_turns (a : Action) (s : State) :
    (scheduleNext a s).turns = ⟨a, s.draw⟩ :: s.turns := rfl

@[simp] theorem setUpc_rest (x : Sequencer) (n : Nat) (s : State) :
       (setUpc x n s).params = s.params ∧ (setUpc x n s).bmProg = s.bmProg ∧ (setUpc x n s).brProg = s.brProg ∧
    (setUpc x n s).rl = s.rl ∧ (setUpc x n s).fs = s.fs ∧ (setUpc x n s).mc = s.mc ∧ (setUpc x n s).menu = s.menu ∧
    (setUpc x n s).db = s.db ∧ (setUpc x n s).ram = s.ram ∧ (setUpc x n s).flash = s.flash ∧
    (setUpc x n s).flashBlank = s.flashBlank ∧ (setUpc x n s).nv = s.nv ∧ (setUpc x n s).storage = s.storage ∧
    (setUpc x n s).out = s.out ∧ (setUpc x n s).turns = s.turns ∧ (setUpc x n s).steps = s.steps ∧
    (setUpc x n s).draw = s.draw ∧ (setUpc x n s).resets = s.resets ∧ (setUpc x n s).active = s.active :=
  by
  cases x <;> exact ⟨rfl, rfl, rfl, rfl, rfl, rfl, rfl, rfl, rfl, rfl, rfl, rfl, rfl, rfl, rfl, rfl, rfl, rfl, rfl⟩

@[simp] theorem setHold_rest (x : Sequencer) (h : BitVec 6) (s : State) :
       (setHold x h s).params = s.params ∧ (setHold x h s).bmProg = s.bmProg ∧ (setHold x h s).brProg = s.brProg ∧
    (setHold x h s).rl = s.rl ∧ (setHold x h s).fs = s.fs ∧ (setHold x h s).mc = s.mc ∧ (setHold x h s).menu = s.menu ∧
    (setHold x h s).db = s.db ∧ (setHold x h s).ram = s.ram ∧ (setHold x h s).flash = s.flash ∧
    (setHold x h s).flashBlank = s.flashBlank ∧ (setHold x h s).nv = s.nv ∧ (setHold x h s).storage = s.storage ∧
    (setHold x h s).out = s.out ∧ (setHold x h s).turns = s.turns ∧ (setHold x h s).steps = s.steps ∧
    (setHold x h s).draw = s.draw ∧ (setHold x h s).resets = s.resets ∧ (setHold x h s).active = s.active :=
  by
  cases x <;> exact ⟨rfl, rfl, rfl, rfl, rfl, rfl, rfl, rfl, rfl, rfl, rfl, rfl, rfl, rfl, rfl, rfl, rfl, rfl, rfl⟩

@[simp] theorem waitEffect_rest (w : Wait) (s : State) :
       (waitEffect w s).params = s.params ∧ (waitEffect w s).bmProg = s.bmProg ∧ (waitEffect w s).brProg = s.brProg ∧
    (waitEffect w s).rl = s.rl ∧ (waitEffect w s).fs = s.fs ∧ (waitEffect w s).mc = s.mc ∧ (waitEffect w s).menu = s.menu ∧
    (waitEffect w s).db = s.db ∧ (waitEffect w s).ram = s.ram ∧ (waitEffect w s).flash = s.flash ∧
    (waitEffect w s).flashBlank = s.flashBlank ∧ (waitEffect w s).nv = s.nv ∧ (waitEffect w s).storage = s.storage ∧
    (waitEffect w s).out = s.out ∧ (waitEffect w s).turns = s.turns ∧ (waitEffect w s).steps = s.steps ∧
    (waitEffect w s).draw = s.draw ∧ (waitEffect w s).resets = s.resets ∧ (waitEffect w s).active = s.active :=
  by
  cases w <;> exact ⟨rfl, rfl, rfl, rfl, rfl, rfl, rfl, rfl, rfl, rfl, rfl, rfl, rfl, rfl, rfl, rfl, rfl, rfl, rfl⟩

@[simp] theorem waitEffect_bus (w : Wait) (s : State) :
    (waitEffect w s).bus = { s.bus with sig := if w = .sig then false else s.bus.sig } := by
  cases w <;> rfl

@[simp] theorem dirEffect_rest (d : DirOp) (s : State) :
       (dirEffect d s).params = s.params ∧ (dirEffect d s).bmProg = s.bmProg ∧ (dirEffect d s).brProg = s.brProg ∧
    (dirEffect d s).rl = s.rl ∧ (dirEffect d s).fs = s.fs ∧ (dirEffect d s).mc = s.mc ∧ (dirEffect d s).menu = s.menu ∧
    (dirEffect d s).db = s.db ∧ (dirEffect d s).ram = s.ram ∧ (dirEffect d s).flash = s.flash ∧
    (dirEffect d s).flashBlank = s.flashBlank ∧ (dirEffect d s).nv = s.nv ∧ (dirEffect d s).storage = s.storage ∧
    (dirEffect d s).out = s.out ∧ (dirEffect d s).turns = s.turns ∧ (dirEffect d s).steps = s.steps ∧
    (dirEffect d s).draw = s.draw ∧ (dirEffect d s).resets = s.resets ∧ (dirEffect d s).active = s.active :=
  by
  cases d <;> exact ⟨rfl, rfl, rfl, rfl, rfl, rfl, rfl, rfl, rfl, rfl, rfl, rfl, rfl, rfl, rfl, rfl, rfl, rfl, rfl⟩

@[simp] theorem dirEffect_bus (d : DirOp) (s : State) :
    (dirEffect d s).bus = { s.bus with dir := match d with | .keep => s.bus.dir | .input => .input | .output => .output } := by
  cases d <;> rfl

@[simp] theorem ctrlEffect_rest (cw : Bool) (c : CtrlLevel) (s : State) :
       (ctrlEffect cw c s).params = s.params ∧ (ctrlEffect cw c s).bmProg = s.bmProg ∧ (ctrlEffect cw c s).brProg = s.brProg ∧
    (ctrlEffect cw c s).rl = s.rl ∧ (ctrlEffect cw c s).fs = s.fs ∧ (ctrlEffect cw c s).mc = s.mc ∧
    (ctrlEffect cw c s).menu = s.menu ∧ (ctrlEffect cw c s).db = s.db ∧ (ctrlEffect cw c s).ram = s.ram ∧
    (ctrlEffect cw c s).flash = s.flash ∧ (ctrlEffect cw c s).flashBlank = s.flashBlank ∧ (ctrlEffect cw c s).nv = s.nv ∧
    (ctrlEffect cw c s).storage = s.storage ∧ (ctrlEffect cw c s).out = s.out ∧ (ctrlEffect cw c s).turns = s.turns ∧
    (ctrlEffect cw c s).steps = s.steps ∧ (ctrlEffect cw c s).draw = s.draw ∧ (ctrlEffect cw c s).resets = s.resets ∧
    (ctrlEffect cw c s).active = s.active :=
  by
  cases cw <;> exact ⟨rfl, rfl, rfl, rfl, rfl, rfl, rfl, rfl, rfl, rfl, rfl, rfl, rfl, rfl, rfl, rfl, rfl, rfl, rfl⟩

@[simp] theorem ctrlEffect_bus (cw : Bool) (c : CtrlLevel) (s : State) :
    (ctrlEffect cw c s).bus = { s.bus with ctrl := if cw then c else s.bus.ctrl } := by
  cases cw <;> rfl

@[simp] theorem setCs_rest (k : Slot) (l : Level) (s : State) :
       (setCs k l s).params = s.params ∧ (setCs k l s).bmProg = s.bmProg ∧ (setCs k l s).brProg = s.brProg ∧
    (setCs k l s).bus = s.bus ∧ (setCs k l s).rl = s.rl ∧ (setCs k l s).fs = s.fs ∧ (setCs k l s).mc = s.mc ∧
    (setCs k l s).menu = s.menu ∧ (setCs k l s).db = s.db ∧ (setCs k l s).ram = s.ram ∧ (setCs k l s).flash = s.flash ∧
    (setCs k l s).flashBlank = s.flashBlank ∧ (setCs k l s).nv = s.nv ∧ (setCs k l s).storage = s.storage ∧
    (setCs k l s).turns = s.turns ∧ (setCs k l s).steps = s.steps ∧ (setCs k l s).draw = s.draw ∧
    (setCs k l s).resets = s.resets ∧ (setCs k l s).active = s.active :=
  by
  cases k <;> exact ⟨rfl, rfl, rfl, rfl, rfl, rfl, rfl, rfl, rfl, rfl, rfl, rfl, rfl, rfl, rfl, rfl, rfl, rfl, rfl⟩

@[simp] theorem presentAddr_rest (k : Slot) (a : Word16) (s : State) :
       (presentAddr k a s).params = s.params ∧ (presentAddr k a s).bmProg = s.bmProg ∧ (presentAddr k a s).brProg = s.brProg ∧
    (presentAddr k a s).bus = s.bus ∧ (presentAddr k a s).rl = s.rl ∧ (presentAddr k a s).fs = s.fs ∧
    (presentAddr k a s).mc = s.mc ∧ (presentAddr k a s).menu = s.menu ∧ (presentAddr k a s).db = s.db ∧
    (presentAddr k a s).ram = s.ram ∧ (presentAddr k a s).flash = s.flash ∧ (presentAddr k a s).flashBlank = s.flashBlank ∧
    (presentAddr k a s).nv = s.nv ∧ (presentAddr k a s).storage = s.storage ∧ (presentAddr k a s).turns = s.turns ∧
    (presentAddr k a s).steps = s.steps ∧ (presentAddr k a s).draw = s.draw ∧ (presentAddr k a s).resets = s.resets ∧
    (presentAddr k a s).active = s.active :=
  by
  cases k <;> exact ⟨rfl, rfl, rfl, rfl, rfl, rfl, rfl, rfl, rfl, rfl, rfl, rfl, rfl, rfl, rfl, rfl, rfl, rfl, rfl⟩

end Sys2Proof.Machine
end

