-- ==== Sys2Proof/Laws/Memory.lean ====
section
/-! SUPPORT. The laws of memory: a read after a write, other addresses, and that every memory operation keeps the canonical form;
then the same in terms of a RAM byte and a FLASH byte of the machine. -/

namespace Sys2Proof.Machine

open Sys2Proof

theorem Memory.read_write_same (m : Memory) (a : Nat) (v : Byte) : Memory.read (Memory.write m a v) a = some v := by
  induction m with
  | nil => simp [Memory.write, Memory.read]
  | cons c m ih =>
    obtain ⟨b, w⟩ := c
    unfold Memory.write
    split
    · simp [Memory.read]
    · split
      · simp [Memory.read]
      · simp [Memory.read, *]

theorem Memory.read_write_other (m : Memory) (a b : Nat) (v : Byte) (h : b ≠ a) :
    Memory.read (Memory.write m a v) b = Memory.read m b := by
  induction m with
  | nil => simp [Memory.write, Memory.read, h]
  | cons c m ih =>
    obtain ⟨d, w⟩ := c
    unfold Memory.write
    split
    · simp [Memory.read, h]
    · split
      · rename_i hd
        subst hd
        simp [Memory.read, h]
      · simp [Memory.read, ih]

/-- What a read after a write gives, at every address. -/
theorem Memory.read_write (m : Memory) (a b : Nat) (v : Byte) :
    Memory.read (Memory.write m a v) b = if b = a then some v else Memory.read m b := by
  split
  · rename_i h
    subst h
    exact Memory.read_write_same m b v
  · rename_i h
    exact Memory.read_write_other m a b v h

/-- What a read after writing a run of bytes gives, at every address. -/
theorem Memory.read_writeBytes (m : Memory) (a b : Nat) (vs : List Byte) :
    Memory.read (Memory.writeBytes m a vs) b =
      if a ≤ b ∧ b < a + vs.length then vs[b - a]? else Memory.read m b := by
  induction vs generalizing m a with
  | nil =>
    have h : ¬(a ≤ b ∧ b < a + ([] : List Byte).length) := by
      simp only [List.length_nil]
      omega
    simp only [Memory.writeBytes, if_neg h]
  | cons v vs ih =>
    rw [Memory.writeBytes, ih, Memory.read_write]
    by_cases h1 : b = a
    · subst h1
      simp
    · by_cases h2 : a ≤ b ∧ b < a + (v :: vs).length
      · have h3 : a + 1 ≤ b ∧ b < a + 1 + vs.length := by
          simp only [List.length_cons] at h2
          omega
        obtain ⟨k, hk⟩ : ∃ k, b - a = k + 1 := ⟨b - a - 1, by omega⟩
        have hk' : b - (a + 1) = k := by omega
        rw [if_pos h2, if_pos h3, hk, hk', List.getElem?_cons_succ]
      · have h3 : ¬(a + 1 ≤ b ∧ b < a + 1 + vs.length) := by
          simp only [List.length_cons] at h2
          omega
        rw [if_neg h3, if_neg h2, if_neg h1]

/-! ## Canonical form -/

theorem Memory.wfAbove_write (m : Memory) (l a : Nat) (v : Byte) (hm : Memory.wfAbove l m = true) (hl : l < a) :
    Memory.wfAbove l (Memory.write m a v) = true := by
  induction m generalizing l with
  | nil => simp [Memory.write, Memory.wfAbove, hl]
  | cons c m ih =>
    obtain ⟨b, w⟩ := c
    simp only [Memory.wfAbove, Bool.and_eq_true, decide_eq_true_eq] at hm
    unfold Memory.write
    split
    · simp_all [Memory.wfAbove]
    · split
      · simp_all [Memory.wfAbove]
      · have hba : b < a := by omega
        simp [Memory.wfAbove, hm.1, ih b hm.2 hba]

theorem Memory.wf_write (m : Memory) (a : Nat) (v : Byte) (hm : Memory.wf m = true) :
    Memory.wf (Memory.write m a v) = true := by
  cases m with
  | nil => simp [Memory.write, Memory.wf, Memory.wfAbove]
  | cons c m =>
    obtain ⟨b, w⟩ := c
    simp only [Memory.wf] at hm
    unfold Memory.write
    split
    · simp_all [Memory.wf, Memory.wfAbove]
    · split
      · simp_all [Memory.wf]
      · have hba : b < a := by omega
        simpa [Memory.wf] using Memory.wfAbove_write m b a v hm hba

theorem Memory.wf_writeBytes (m : Memory) (a : Nat) (vs : List Byte) (hm : Memory.wf m = true) :
    Memory.wf (Memory.writeBytes m a vs) = true := by
  induction vs generalizing m a with
  | nil => simpa [Memory.writeBytes] using hm
  | cons v vs ih => exact ih _ _ (Memory.wf_write m a v hm)

theorem reset_memories_wf : Memory.wf State.reset.ram = true ∧ Memory.wf State.reset.flash = true := ⟨rfl, rfl⟩

theorem Memory.wf_ramWrite (a : Word32) (v : Byte) (s : State) (h : Memory.wf s.ram = true) :
    Memory.wf (ramWrite a v s).ram = true := Memory.wf_write s.ram a.toNat v h

theorem Memory.wf_flashErase (o : Nat) (s t : State) (h : Memory.wf s.flash = true) (he : flashErase o s = some t) :
    Memory.wf t.flash = true := by
  unfold flashErase at he
  split at he
  · simp only [Option.some.injEq] at he
    subst he
    exact Memory.wf_writeBytes _ _ _ h
  · cases he

theorem Memory.wf_flashProgram (o : Nat) (bytes : List Byte) (s t : State) (h : Memory.wf s.flash = true)
    (he : flashProgram o bytes s = some t) : Memory.wf t.flash = true := by
  unfold flashProgram at he
  split at he
  · simp only [Option.some.injEq] at he
    subst he
    exact Memory.wf_writeBytes _ _ _ h
  · cases he

theorem Memory.wf_flashSpoil (o : Nat) (s : State) (h : Memory.wf s.flash = true) :
    Memory.wf (flashSpoil o s).flash = true := Memory.wf_writeBytes _ _ _ h

/-! ## Bytes of the machine -/

/-- A RAM byte depends on the RAM list and on which reset it was. -/
theorem ramByte_congr (s t : State) (a : Nat) (h : t.ram = s.ram) (hr : t.resets = s.resets) :
    ramByte t a = ramByte s a := by simp [ramByte, h, hr]

/-- A FLASH byte depends on the FLASH list alone. -/
theorem flashByte_congr (s t : State) (o : Nat) (h : t.flash = s.flash) : flashByte t o = flashByte s o := by
  simp [flashByte, h]

/-- A RAM halfword depends on the RAM list and on which reset it was. -/
theorem ramRead16_congr (s t : State) (a : Word32) (h : t.ram = s.ram) (hr : t.resets = s.resets) :
    ramRead16 t a = ramRead16 s a := by simp [ramRead16, ramByte, h, hr]

/-- A RAM byte after a RAM write. -/
theorem ramByte_ramWrite (a : Word32) (v : Byte) (s : State) (b : Nat) :
    ramByte (ramWrite a v s) b = if b = a.toNat then v else ramByte s b := by
  simp only [ramByte, ramWrite_ram, ramWrite_rest, Memory.read_write]
  split <;> simp

end Sys2Proof.Machine
end

