-- ==== Sys2Proof/Laws/Ops.lean ====
section
/-! SUPPORT. One lemma for each shared operation that says once everything it can do: where it answers a next state, one of the
listed cases holds, guards included. -/

namespace Sys2Proof.Machine

open Sys2Proof

/-! ## The flash device -/

/-- What FlashErase can do. -/
theorem flashErase_some (o : Nat) (s t : State) (h : flashErase o s = some t) :
    o % s.params.sector = 0 ∧ o + s.params.sector ≤ s.params.flashSize ∧
      t = { s with
        flash := Memory.writeBytes s.flash o (List.replicate s.params.sector s.params.erased)
        flashBlank := if o ∈ s.flashBlank then s.flashBlank else o :: s.flashBlank } := by
  unfold flashErase at h
  split at h
  · rename_i hp
    exact ⟨hp.1, hp.2, (Option.some.inj h).symm⟩
  · cases h

/-- What FlashProgram can do. -/
theorem flashProgram_some (o : Nat) (bytes : List Byte) (s t : State) (h : flashProgram o bytes s = some t) :
    o % s.params.page = 0 ∧ bytes ≠ [] ∧ bytes.length % s.params.page = 0 ∧
      o + bytes.length ≤ sectorOf s.params o + s.params.sector ∧ sectorOf s.params o ∈ s.flashBlank ∧
      t = { s with
        flash := Memory.writeBytes s.flash o bytes
        flashBlank := s.flashBlank.filter (fun b => b != sectorOf s.params o) } := by
  unfold flashProgram at h
  split at h
  · rename_i hp
    exact ⟨hp.1, hp.2.1, hp.2.2.1, hp.2.2.2.1, hp.2.2.2.2, (Option.some.inj h).symm⟩
  · cases h

/-! ## Sequencer registers -/

theorem upcOf_setUpc (x : Sequencer) (n : Nat) (s : State) :
    upcOf x (setUpc x n s) = n % (match x with | .bm0 => 4 | .bm1 => 4 | .br => 8) := by
  cases x <;> simp [upcOf, setUpc]

@[simp] theorem upcOf_setHold (x y : Sequencer) (h : BitVec 6) (s : State) : upcOf x (setHold y h s) = upcOf x s := by
  cases x <;> cases y <;> rfl

@[simp] theorem holdOf_setHold (x : Sequencer) (h : BitVec 6) (s : State) : holdOf x (setHold x h s) = h := by
  cases x <;> rfl

@[simp] theorem holdOf_setUpc (x y : Sequencer) (n : Nat) (s : State) : holdOf x (setUpc y n s) = holdOf x s := by
  cases x <;> cases y <;> rfl

/-- Everything of the bus engine but the sequencers' own registers is left alone by a UPC write. -/
@[simp] theorem setUpc_bus_rest (x : Sequencer) (n : Nat) (s : State) :
    (setUpc x n s).bus.armed = s.bus.armed ∧ (setUpc x n s).bus.addrHi = s.bus.addrHi ∧
    (setUpc x n s).bus.sig = s.bus.sig ∧ (setUpc x n s).bus.cap = s.bus.cap ∧ (setUpc x n s).bus.dout = s.bus.dout ∧
    (setUpc x n s).bus.dir = s.bus.dir ∧ (setUpc x n s).bus.ctrl = s.bus.ctrl ∧
    (setUpc x n s).bus.addrFifo = s.bus.addrFifo ∧ (setUpc x n s).bus.replyFifo = s.bus.replyFifo := by
  cases x <;> exact ⟨rfl, rfl, rfl, rfl, rfl, rfl, rfl, rfl, rfl⟩

/-- Everything of the bus engine but the sequencers' own registers is left alone by a HOLD write. -/
@[simp] theorem setHold_bus_rest (x : Sequencer) (h : BitVec 6) (s : State) :
    (setHold x h s).bus.armed = s.bus.armed ∧ (setHold x h s).bus.addrHi = s.bus.addrHi ∧
    (setHold x h s).bus.sig = s.bus.sig ∧ (setHold x h s).bus.cap = s.bus.cap ∧ (setHold x h s).bus.dout = s.bus.dout ∧
    (setHold x h s).bus.dir = s.bus.dir ∧ (setHold x h s).bus.ctrl = s.bus.ctrl ∧
    (setHold x h s).bus.addrFifo = s.bus.addrFifo ∧ (setHold x h s).bus.replyFifo = s.bus.replyFifo := by
  cases x <;> exact ⟨rfl, rfl, rfl, rfl, rfl, rfl, rfl, rfl, rfl⟩

/-! ## The common micro-step -/

/-- What a micro-step can do: stall, one hold cycle, or the word's effects and the advance. -/
theorem microStep_cases (x : Sequencer) (f : MicroFields) (ready : State → Bool) (act : State → State → State) (s : State) :
    (s.bus.armed = false ∧ microStep x f ready act s = s) ∨
    (s.bus.armed = true ∧ holdOf x s ≠ 0 ∧ microStep x f ready act s = holdCycle x s) ∨
    (s.bus.armed = true ∧ holdOf x s = 0 ∧ (waitReady x f.wait s && ready s) = false ∧ microStep x f ready act s = s) ∨
    (s.bus.armed = true ∧ holdOf x s = 0 ∧ waitReady x f.wait s = true ∧ ready s = true ∧
      microStep x f ready act s =
        advance x f.hold (act s (ctrlEffect f.cw f.ctrl (dirEffect f.dir (waitEffect f.wait s))))) := by
  unfold microStep
  cases ha : s.bus.armed
  · exact .inl ⟨rfl, rfl⟩
  · refine .inr ?_
    simp only [Bool.not_true, Bool.false_eq_true, if_false]
    by_cases hh : holdOf x s = 0
    · rw [if_neg (not_not.mpr hh)]
      cases hw : (waitReady x f.wait s && ready s)
      · exact .inr (.inl ⟨trivial, hh, rfl, rfl⟩)
      · have hw' := hw
        simp only [Bool.and_eq_true] at hw'
        exact .inr (.inr ⟨trivial, hh, hw'.1, hw'.2, rfl⟩)
    · exact .inl ⟨trivial, hh, if_pos hh⟩

/-- A micro-instruction answers a next state exactly when it is legal for the active sequencer. -/
theorem runMicro_next (i : Instr) (f : MicroFields) (ready : State → Bool) (act : State → State → State) (s t : State)
    (h : runMicro i f ready act s = .next t) : i.legalFor s.active = true ∧ t = microStep s.active f ready act s := by
  unfold runMicro at h
  split at h
  · rename_i hl
    exact ⟨hl, (Host.Outcome.next.inj h).symm⟩
  · cases h

/-! ## Commands -/

/-- What a command with an effect can do: take effect in SETUP_LOOP, be ignored, or be rejected. -/
theorem acceptCommand_cases (effect : State → State) (s : State) :
    (s.mc.state = .setupLoop ∧ acceptCommand effect s = effect (recordError .none s)) ∨
    (s.mc.state.isTerminal = true ∧ acceptCommand effect s = s) ∨
    (s.mc.state ≠ .setupLoop ∧ s.mc.state.isTerminal = false ∧ acceptCommand effect s = recordError .commandRejected s) := by
  unfold acceptCommand rejectCommand
  by_cases h : s.mc.state = .setupLoop
  · exact .inl ⟨h, by simp [h]⟩
  · cases ht : s.mc.state.isTerminal
    · exact .inr (.inr ⟨h, rfl, by simp [h]⟩)
    · exact .inr (.inl ⟨rfl, by simp [h]⟩)

/-! ## The agents -/

/-- What an LU step can do. -/
theorem luStep_cases (s : State) :
    luStep s = s ∨
    ∃ a rest, s.bus.armed = true ∧ fifoFull s s.bus.replyFifo = false ∧ s.bus.addrFifo = a :: rest ∧
      luStep s = pushReply (ramRead16 s a) (popAddr s) := by
  unfold luStep
  split
  · exact .inl rfl
  · rename_i hc
    simp only [Bool.or_eq_true, Bool.not_eq_true', not_or, Bool.not_eq_false, Bool.not_eq_true] at hc
    split
    · exact .inl rfl
    · rename_i a rest hq
      exact .inr ⟨a, rest, hc.1, hc.2, hq, rfl⟩

/-- What a copy step that answers a next state can do. -/
theorem rlCopyStep_next (s t : State) (h : rlCopyStep s = .next t) :
    (s.bus.armed = true ∧ t = fatal .busArmError s) ∨
    (s.bus.armed = false ∧ ∃ b, loadByte s s.rl.idx.toNat = .ok b ∧
      t = { ramWrite (loadAddr s s.rl.idx.toNat) b s with rl := { s.rl with idx := s.rl.idx + 1 } }) := by
  unfold rlCopyStep at h
  split at h
  · rename_i ha
    exact .inl ⟨ha, (Host.Outcome.next.inj h).symm⟩
  · rename_i ha
    split at h
    · cases h
    · rename_i b hb
      exact .inr ⟨by simpa using ha, b, hb, (Host.Outcome.next.inj h).symm⟩

/-- What an RL step that answers a next state can do. -/
theorem rlStep_next (s t : State) (h : rlStep s = .next t) :
    t = s ∨
    (s.rl.busy = true ∧ s.rl.idx.toNat < s.rl.len.toNat ∧ rlCopyStep s = .next t) ∨
    (s.rl.busy = true ∧ s.rl.idx = s.rl.len ∧ t = armStep s) := by
  unfold rlStep at h
  split at h
  · exact .inl (Host.Outcome.next.inj h).symm
  · rename_i hb
    simp only [Bool.not_eq_true', Bool.not_eq_false] at hb
    split at h
    · rename_i hl
      exact .inr (.inl ⟨hb, hl, h⟩)
    · split at h
      · rename_i he
        exact .inr (.inr ⟨hb, he, (Host.Outcome.next.inj h).symm⟩)
      · exact .inl (Host.Outcome.next.inj h).symm

/-- What programming a chunk that answers a next state can do. -/
theorem fsProgramChunk_next (n : Nat) (bytes : List Byte) (s v : State) (h : fsProgramChunk n bytes s = .next v) :
    ∃ t u, flashErase s.fs.off.toNat s = some t ∧
      flashProgram s.fs.off.toNat (swap16 (padChunk s.params bytes)) t = some u ∧
      ((s.draw.verifies = true ∧
          v = { u with fs := { u.fs with off := u.fs.off + BitVec.ofNat 32 n, pos := u.fs.pos + BitVec.ofNat 32 n } }) ∨
        (s.draw.verifies = false ∧ v = fsFinish .flashProgramError (flashSpoil s.fs.off.toNat u))) := by
  unfold fsProgramChunk at h
  split at h
  · cases h
  · rename_i t ht
    split at h
    · cases h
    · rename_i u hu
      split at h
      · rename_i hv
        exact ⟨t, u, ht, hu, .inl ⟨hv, (Host.Outcome.next.inj h).symm⟩⟩
      · rename_i hv
        exact ⟨t, u, ht, hu, .inr ⟨by simpa using hv, (Host.Outcome.next.inj h).symm⟩⟩

/-- What a chunk step that answers a next state can do. -/
theorem fsChunkStep_next (hd : Handle) (s t : State) (h : fsChunkStep hd s = .next t) :
    (s.fs.pos = s.fs.len ∧ t = fsFinish .ok s) ∨
    (s.fs.pos ≠ s.fs.len ∧ stRead hd s.fs.pos.toNat (chunkSize s) s = none ∧ t = fsFinish .storageError s) ∨
    (s.fs.pos ≠ s.fs.len ∧ ∃ bytes, stRead hd s.fs.pos.toNat (chunkSize s) s = some bytes ∧
      fsProgramChunk (chunkSize s) bytes s = .next t) := by
  unfold fsChunkStep at h
  split at h
  · rename_i hp
    exact .inl ⟨hp, (Host.Outcome.next.inj h).symm⟩
  · rename_i hp
    split at h
    · rename_i hr
      exact .inr (.inl ⟨hp, hr, (Host.Outcome.next.inj h).symm⟩)
    · rename_i bytes hr
      exact .inr (.inr ⟨hp, bytes, hr, h⟩)

/-- What an FS step that answers a next state can do. -/
theorem fsStep_next (s t : State) (h : fsStep s = .next t) :
    (s.fs.busy = false ∧ t = s) ∨
    (s.fs.busy = true ∧ s.fs.handle = none ∧ t = fsStartStep s) ∨
    (s.fs.busy = true ∧ ∃ hd, s.fs.handle = some hd ∧ fsChunkStep hd s = .next t) := by
  unfold fsStep at h
  split at h
  · rename_i hb
    exact .inl ⟨by simpa using hb, (Host.Outcome.next.inj h).symm⟩
  · rename_i hb
    have hb' : s.fs.busy = true := by simpa using hb
    split at h
    · rename_i hn
      exact .inr (.inl ⟨hb', hn, (Host.Outcome.next.inj h).symm⟩)
    · rename_i hd hs
      exact .inr (.inr ⟨hb', hd, hs, h⟩)

/-- A size check changes the FS registers alone. -/
theorem fsSizeCheck_rest (s : State) : fsSizeCheck s = { s with fs := (fsSizeCheck s).fs } := by
  unfold fsSizeCheck
  split <;> rfl

/-- A start step changes the FS registers alone. -/
theorem fsStartStep_rest (s : State) : fsStartStep s = { s with fs := (fsStartStep s).fs } := by
  unfold fsStartStep
  split
  · rfl
  · split
    · rfl
    · dsimp only
      split
      · split
        · rfl
        · exact fsSizeCheck_rest _
      · exact fsSizeCheck_rest _

/-! ## Steps -/

/-- A step is the action of the next turn, in the state with that turn taken. -/
theorem step_eq (s : State) : step s = runAction (nextTurn s).action (takeTurn s) := rfl

/-- With a turn queued, that turn is the next one. -/
theorem nextTurn_cons (s : State) (t : Turn) (rest : List Turn) (h : s.turns = t :: rest) : nextTurn s = t := by
  simp [nextTurn, h]

/-- What a sequencer's turn that answers a next state can do. -/
theorem seqTurn_next (x : Sequencer) (s t : State) (h : seqTurn x s = .next t) :
    ∃ w i, fetchWord x s = some w ∧ decodeFor x w = .instr i ∧ exec i { s with active := x } = .next t := by
  unfold seqTurn at h
  split at h
  · cases h
  · rename_i w hw
    split at h
    · rename_i i hi
      exact ⟨w, i, hw, hi, h⟩
    · cases h

/-- What a write to CMD that answers a next state can do. -/
theorem writeCmd_next (w : Word16) (s t : State) (h : writeCmd w s = .next t) :
    (∃ i, decodeCommand w = .instr i ∧ exec i s = .next t) ∨
    (∃ e, decodeCommand w = .refused e ∧ t = rejectCommand s) := by
  unfold writeCmd at h
  split at h
  · rename_i i hi
    exact .inl ⟨i, hi, h⟩
  · rename_i e he
    exact .inr ⟨e, he, (Host.Outcome.next.inj h).symm⟩

end Sys2Proof.Machine
end

