-- ==== Sys2Proof/Laws/Agents.lean ====
section
/-! SUPPORT. What the agents' steps and the shared operations they call can do, and what they leave alone: the debouncer, the
invocations of RL and FS, the ARM step, one Mode Controller step, one turn. -/

namespace Sys2Proof.Machine

open Sys2Proof

/-! ## Sequencers -/

/-- The end of a step touches the sequencer's own UPC and HOLD alone. -/
theorem advance_frame (x : Sequencer) (h : BitVec 6) (s : State) :
    advance x h s = { s with bus := (advance x h s).bus } ∧ (advance x h s).bus.armed = s.bus.armed ∧
    (advance x h s).bus.addrHi = s.bus.addrHi ∧ (advance x h s).bus.sig = s.bus.sig ∧ (advance x h s).bus.cap = s.bus.cap ∧
    (advance x h s).bus.dout = s.bus.dout ∧ (advance x h s).bus.dir = s.bus.dir ∧ (advance x h s).bus.ctrl = s.bus.ctrl ∧
    (advance x h s).bus.addrFifo = s.bus.addrFifo ∧ (advance x h s).bus.replyFifo = s.bus.replyFifo := by
  unfold advance
  split <;> cases x <;> exact ⟨rfl, rfl, rfl, rfl, rfl, rfl, rfl, rfl, rfl, rfl⟩

/-- A hold cycle touches the sequencer's own UPC and HOLD alone. -/
theorem holdCycle_frame (x : Sequencer) (s : State) :
    holdCycle x s = { s with bus := (holdCycle x s).bus } ∧ (holdCycle x s).bus.armed = s.bus.armed ∧
    (holdCycle x s).bus.addrHi = s.bus.addrHi ∧ (holdCycle x s).bus.sig = s.bus.sig ∧ (holdCycle x s).bus.cap = s.bus.cap ∧
    (holdCycle x s).bus.dout = s.bus.dout ∧ (holdCycle x s).bus.dir = s.bus.dir ∧ (holdCycle x s).bus.ctrl = s.bus.ctrl ∧
    (holdCycle x s).bus.addrFifo = s.bus.addrFifo ∧ (holdCycle x s).bus.replyFifo = s.bus.replyFifo := by
  unfold holdCycle
  split <;> cases x <;> exact ⟨rfl, rfl, rfl, rfl, rfl, rfl, rfl, rfl, rfl, rfl⟩

/-! ## The debouncer -/

/-- What a tick can do: no edge pending, one more differing tick, a press edge, a release edge. -/
theorem dbTick_cases (s : State) :
    (rawButton s = s.db.stable ∧
      dbTick s = { s with db := { s.db with cnt := 0, holdc := BitVec.ofNat 16 (heldTicks s) } }) ∨
    (rawButton s ≠ s.db.stable ∧ s.db.cnt.toNat + 1 < s.params.debounceTicks ∧
      dbTick s = { s with db := { s.db with cnt := s.db.cnt + 1, holdc := BitVec.ofNat 16 (heldTicks s) } }) ∨
    (rawButton s = true ∧ s.db.stable = false ∧ s.params.debounceTicks ≤ s.db.cnt.toNat + 1 ∧
      dbTick s = { s with db := { s.db with cnt := 0, stable := true, holdc := 0 } }) ∨
    (rawButton s = false ∧ s.db.stable = true ∧ s.params.debounceTicks ≤ s.db.cnt.toNat + 1 ∧
      dbTick s = { s with db := { s.db with
        cnt := 0, stable := false, holdc := BitVec.ofNat 16 (heldTicks s), evt := classify s.params (heldTicks s) } }) := by
  unfold dbTick
  dsimp only
  by_cases h : rawButton s = s.db.stable
  · exact .inl ⟨h, if_pos h⟩
  · rw [if_neg h]
    by_cases hc : s.db.cnt.toNat + 1 < s.params.debounceTicks
    · exact .inr (.inl ⟨h, hc, if_pos hc⟩)
    · rw [if_neg hc]
      have hc := Nat.le_of_not_lt hc
      cases hr : rawButton s
      · have hs : s.db.stable = true := by cases hs : s.db.stable <;> simp_all
        exact .inr (.inr (.inr ⟨rfl, hs, hc, rfl⟩))
      · have hs : s.db.stable = false := by cases hs : s.db.stable <;> simp_all
        exact .inr (.inr (.inl ⟨rfl, hs, hc, rfl⟩))

/-- A tick touches the debouncer's own registers alone, and not LP_EN. -/
theorem dbTick_frame (s : State) :
    dbTick s = { s with db := (dbTick s).db } ∧ (dbTick s).db.lpEn = s.db.lpEn := by
  rcases dbTick_cases s with ⟨_, h⟩ | ⟨_, _, h⟩ | ⟨_, _, _, h⟩ | ⟨_, _, _, h⟩ <;> rw [h] <;> exact ⟨rfl, rfl⟩

/-! ## RL and FS -/

/-- What RlInvoke can do. -/
theorem rlInvoke_cases (src : Source) (s : State) :
    (s.rl.busy = true ∧ rlInvoke src s = s) ∨
    (s.rl.busy = false ∧
      rlInvoke src s = { s with rl := ⟨true, src, 0, BitVec.ofNat 17 (loadLength s.params src)⟩ }) := by
  unfold rlInvoke
  cases h : s.rl.busy
  · exact .inr ⟨rfl, rfl⟩
  · exact .inl ⟨rfl, rfl⟩

/-- What the ARM step can do. -/
theorem armStep_cases (s : State) :
    (s.bus.armed = true ∧ armStep s = fatal .busArmError s) ∨
    (s.bus.armed = false ∧
      armStep s = { s with
        bus := { s.bus with
          armed := true, addrHi := s.params.winHigh, sig := false, bm0 := ⟨0, 0⟩, bm1 := ⟨0, 0⟩, brUpc := 0, brHold := 0
          addrFifo := [], replyFifo := [] }
        rl := { s.rl with busy := false } }) := by
  unfold armStep
  cases h : s.bus.armed
  · exact .inr ⟨rfl, rfl⟩
  · exact .inl ⟨rfl, rfl⟩

/-- What FsInvoke can do. -/
theorem fsInvoke_cases (d : BitVec 32) (s : State) :
    (s.fs.busy = true ∧ fsInvoke d s = s) ∨
    (s.fs.busy = false ∧ s.mc.state.isEmulation = true ∧ fsInvoke d s = fatal .flashWhileEmulating s) ∨
    (s.fs.busy = false ∧ s.mc.state.isEmulation = false ∧ fsInvoke d s = { s with fs := ⟨true, none, 0, 0, d, .ok⟩ }) := by
  unfold fsInvoke
  cases h : s.fs.busy
  · cases he : s.mc.state.isEmulation
    · exact .inr (.inr ⟨rfl, rfl, rfl⟩)
    · exact .inr (.inl ⟨rfl, rfl, rfl⟩)
  · exact .inl ⟨rfl, rfl⟩

/-- An FS step touches the FS registers and FLASH alone. -/
theorem fsStep_frame (s t : State) (h : fsStep s = .next t) :
    t = { s with fs := t.fs, flash := t.flash, flashBlank := t.flashBlank } := by
  rcases fsStep_next s t h with ⟨_, h⟩ | ⟨_, _, h⟩ | ⟨_, hd, _, h⟩
  · rw [h]
  · rw [h]
    conv_lhs => rw [fsStartStep_rest]
    rw [fsStartStep_rest]
  · rcases fsChunkStep_next hd s t h with ⟨_, h⟩ | ⟨_, _, h⟩ | ⟨_, bytes, _, h⟩
    · rw [h]; rfl
    · rw [h]; rfl
    · obtain ⟨u, v, h1, h2, h3⟩ := fsProgramChunk_next _ _ _ _ h
      have e1 := (flashErase_some _ _ _ h1).2.2
      have e2 := (flashProgram_some _ _ _ _ h2).2.2.2.2.2
      rcases h3 with ⟨_, h3⟩ | ⟨_, h3⟩
      · rw [h3, e2, e1]
      · rw [h3, e2, e1]; rfl

/-- An LU step touches the two FIFOs alone. -/
theorem luStep_frame (s : State) :
    luStep s = { s with bus := (luStep s).bus } ∧
    (luStep s).bus = { s.bus with addrFifo := (luStep s).bus.addrFifo, replyFifo := (luStep s).bus.replyFifo } := by
  rcases luStep_cases s with h | ⟨a, r, _, _, _, h⟩ <;> rw [h] <;> exact ⟨rfl, rfl⟩

/-! ## The Mode Controller -/

/-- The MC step of each state, where neither RL nor FS runs. -/
def mcAction (q : McState) (s : State) : State :=
  match q with
  | .boot => mcBoot s
  | .setupStage => mcSetupStage s
  | .setupInit => mcSetupInit s.draw.present s.draw.connects s
  | .storageWait => mcStorageWait s.draw.present s
  | .launchCheck => mcLaunchCheck s
  | .launchRecord => mcLaunchRecord s
  | .launchFlash => mcLaunchFlash s
  | .launchPersist => mcLaunchPersist s
  | .handoffPersist => mcHandoffPersist s
  | .delayWait => mcDelayWait s
  | .emuStage => mcEmuStage s
  | .emuWaitExit => mcEmuWaitExit s
  | .exitPersist => mcExitPersist s
  | .factoryReset => mcFactoryReset s
  | .setupLoop | .handedOff | .resetReq | .fatal => s

/-- With RL and FS idle, an MC step in state q is the action of q. -/
theorem mcStep_idle (s : State) (q : McState) (hr : s.rl.busy = false) (hf : s.fs.busy = false) (hq : s.mc.state = q) :
    mcStep s = mcAction q s := by
  unfold mcStep
  rw [hr, hf, hq]
  cases q <;> rfl

/-! ## One turn -/

/-- What an action that answers a next state can do, agent by agent; the actions of the host, the operator and MENU that are no
command touch the wires and MENU's ports alone. -/
theorem runAction_cases (a : Action) (s t : State) (h : runAction a s = .next t) :
    (∃ x, a = .seq x ∧ seqTurn x s = .next t) ∨ (a = .lu ∧ t = luStep s) ∨ (a = .rl ∧ rlStep s = .next t) ∨
    (a = .fs ∧ fsStep s = .next t) ∨ (a = .mc ∧ t = mcStep s) ∨ (a = .db ∧ t = dbTick s) ∨
    (∃ w, a = .writeCsr 3 w ∧ writeCmd w s = .next t) ∨ (a = .deviceReset ∧ t = deviceReset s) ∨
    (t = { s with out := t.out, menu := t.menu } ∧ a ≠ .deviceReset ∧ a ≠ .mc ∧ a ≠ .fs ∧ a ≠ .rl) := by
  cases a with
  | seq x => exact .inl ⟨x, rfl, h⟩
  | lu => cases h; exact .inr (.inl ⟨rfl, rfl⟩)
  | rl => exact .inr (.inr (.inl ⟨rfl, h⟩))
  | fs => exact .inr (.inr (.inr (.inl ⟨rfl, h⟩)))
  | mc => cases h; exact .inr (.inr (.inr (.inr (.inl ⟨rfl, rfl⟩))))
  | db => cases h; exact .inr (.inr (.inr (.inr (.inr (.inl ⟨rfl, rfl⟩)))))
  | deviceReset => cases h; exact .inr (.inr (.inr (.inr (.inr (.inr (.inr (.inl ⟨rfl, rfl⟩)))))))
  | hostAssert k w =>
    cases h
    refine .inr (.inr (.inr (.inr (.inr (.inr (.inr (.inr ⟨?_, by simp⟩)))))))
    unfold hostAssert
    split
    · cases k <;> rfl
    · rfl
  | hostSample => cases h; exact .inr (.inr (.inr (.inr (.inr (.inr (.inr (.inr ⟨rfl, by simp⟩)))))))
  | hostDeassert k =>
    cases h
    refine .inr (.inr (.inr (.inr (.inr (.inr (.inr (.inr ⟨?_, by simp⟩)))))))
    unfold hostDeassert
    split
    · cases k <;> rfl
    · rfl
  | setButton l => cases h; exact .inr (.inr (.inr (.inr (.inr (.inr (.inr (.inr ⟨rfl, by simp⟩)))))))
  | writeFname n =>
    have h' : writeFname n s = .next t := h
    unfold writeFname at h'
    split at h'
    · cases h'; exact .inr (.inr (.inr (.inr (.inr (.inr (.inr (.inr ⟨rfl, by simp⟩)))))))
    · cases h'
  | readFname => cases h; exact .inr (.inr (.inr (.inr (.inr (.inr (.inr (.inr ⟨rfl, by simp⟩)))))))
  | readCsr n => cases h; exact .inr (.inr (.inr (.inr (.inr (.inr (.inr (.inr ⟨rfl, by simp⟩)))))))
  | writeCsr n w =>
    have h' : writeCsr n w s = .next t := h
    unfold writeCsr at h'
    split at h'
    · rename_i hn
      subst hn
      exact .inr (.inr (.inr (.inr (.inr (.inr (.inl ⟨w, rfl, h'⟩))))))
    · cases h'; exact .inr (.inr (.inr (.inr (.inr (.inr (.inr (.inr ⟨rfl, by simp⟩)))))))

end Sys2Proof.Machine
end

