-- ==== Sys2Proof/Laws/PerInstr.lean ====
section
/-! SUPPORT. One family of facts about every instruction as syntax: its encoded word carries the bits that its row of
spec/opcode_table.json fixes (the row's mask and match). -/

namespace Sys2Proof.Laws.EncodeMatchesTable

open Sys2Proof

/-- The mask of the instruction's row. -/
def rowMask : Instr → Word16
  | .step _ => 0x00C0
  | .raise _ => 0x00C0
  | .capture _ => 0x00C0
  | .drive _ => 0x00C0
  | .nop => 0xFFFF
  | .launch _ => 0xFEFF
  | .handoff => 0xFFFF

/-- The match of the instruction's row. -/
def rowMatch : Instr → Word16
  | .step _ => 0x0000
  | .raise _ => 0x0040
  | .capture _ => 0x0080
  | .drive _ => 0x00C0
  | .nop => 0x0000
  | .launch _ => 0x0001
  | .handoff => 0x0002

/-- The word of i has the fixed bits of i's row. -/
def Statement (i : Instr) : Prop := encode i &&& rowMask i = rowMatch i

/-- The ACT field of an encoded micro-word is its act, whatever the other fields. -/
theorem act_of_encodeMicro (act : BitVec 2) (f : MicroFields) :
    encodeMicro act f &&& 0x00C0 = (act.setWidth 16) <<< 6 := by
  unfold encodeMicro
  generalize waitBits f.wait = a
  generalize dirOpBits f.dir = b
  generalize BitVec.ofBool f.cw = c
  generalize ctrlBits f.ctrl = d
  generalize f.hold = e
  apply BitVec.eq_of_getLsbD_eq
  intro i hi
  simp only [BitVec.getLsbD_and, BitVec.getLsbD_append, BitVec.getLsbD_shiftLeft, BitVec.getLsbD_setWidth]
  interval_cases i <;> simp

theorem step (f : MicroFields) : Statement (.step f) := (act_of_encodeMicro _ f).trans rfl

theorem raise (f : MicroFields) : Statement (.raise f) := (act_of_encodeMicro _ f).trans rfl

theorem capture (f : MicroFields) : Statement (.capture f) := (act_of_encodeMicro _ f).trans rfl

theorem drive (f : MicroFields) : Statement (.drive f) := (act_of_encodeMicro _ f).trans rfl

theorem nop : Statement .nop := rfl

theorem launch (m : LaunchMode) : Statement (.launch m) := by cases m <;> rfl

theorem handoff : Statement .handoff := rfl

end Sys2Proof.Laws.EncodeMatchesTable
end

