-- ==== Sys2Proof/Laws/Runs.lean ====
section
/-! SUPPORT. Runs and sequences of steps: the one induction along a sequence of steps, what the end of a run says of the states on
either side of it, and the observation of a run field by field. -/

namespace Sys2Proof.Machine

open Sys2Proof

/-- What every step of a kind keeps holds along a stretch of a sequence whose steps are all of that kind. -/
theorem holds_along {P : State → Prop} {r : Nat → State} {m n : Nat} (h0 : P (r m))
    (hstep : ∀ i, m ≤ i → i < n → P (r i) → P (r (i + 1))) : ∀ i, m ≤ i → i ≤ n → P (r i) := by
  intro i
  induction i with
  | zero => intro hm _; rwa [Nat.le_zero.mp hm] at h0
  | succ i ih =>
    intro hm hn
    rcases Nat.lt_or_ge i m with h | h
    · rwa [show i + 1 = m by omega]
    · exact hstep i h (by omega) (ih h (by omega))

/-! ## The end of a run -/

/-- A run that ends is in neither of the states in which it would be over already. -/
theorem runEnd_before {a : Action} {s t : State} {e : RunEnd} (h : runEnd a s t = some e) :
    s.mc.state ≠ .handedOff ∧ s.mc.state ≠ .fatal := by
  unfold runEnd at h
  split at h
  · cases h
  · rename_i hs; exact not_or.mp hs

/-- What each end of a run says of the action that brings it and of the states around it (R387). -/
theorem runEnd_cases {a : Action} {s t : State} {e : RunEnd} (h : runEnd a s t = some e) :
    (e = .resetRequested ∧ a = .deviceReset ∧ s.mc.state = .resetReq) ∨
    (e = .interrupted ∧ a = .deviceReset ∧ s.mc.state ≠ .resetReq) ∨
    (e = .handedOff ∧ a ≠ .deviceReset ∧ t.mc.state = .handedOff) ∨
    (e = .faulted ∧ a ≠ .deviceReset ∧ t.mc.state = .fatal) := by
  unfold runEnd at h
  split at h
  · cases h
  · split at h
    · rename_i ha
      split at h
      · cases h; exact .inl ⟨rfl, ha, ‹_›⟩
      · cases h; exact .inr (.inl ⟨rfl, ha, ‹_›⟩)
    · rename_i ha
      split at h
      · cases h; exact .inr (.inr (.inl ⟨rfl, ha, ‹_›⟩))
      · split at h
        · cases h; exact .inr (.inr (.inr ⟨rfl, ha, ‹_›⟩))
        · cases h

/-! ## The observation of a run -/

@[simp] theorem observe_nv (s t : State) : (observe s t).nv = t.nv := rfl

@[simp] theorem observe_resetRequested (s t : State) : (observe s t).resetRequested = t.mc.resetRequested := rfl

@[simp] theorem observe_handoff (s t : State) : (observe s t).handoff = t.mc.handoff := rfl

@[simp] theorem observe_fatalF (s t : State) : (observe s t).fatalF = t.mc.fatalF := rfl

@[simp] theorem observe_lastError (s t : State) : (observe s t).lastError = t.mc.lastError := rfl

/-- Byte o of the observed FLASH, for every offset FLASH has. -/
theorem observe_flash (s t : State) (o : Nat) (h : o < t.params.flashSize) :
    (observe s t).flash[o]? = some (flashByte t o) := by
  simp [observe, h]

/-- No sample between the two states, none observed. -/
theorem samplesSince_self (s : State) : samplesSince s s = [] := by simp [samplesSince]

/-- The samples taken since s, newest first in the state, are observed oldest first. -/
theorem samplesSince_append (s t : State) (new : List Sample) (h : t.out.samples = new ++ s.out.samples) :
    samplesSince s t = new.reverse := by
  simp [samplesSince, h]

end Sys2Proof.Machine
end

