-- ==== Sys2Proof/Tests/Slice0.lean ====
section
/-! SUPPORT. The model's own tests, each on one small step; their expected results are vectors of spec/95_test_vectors.md (their ids
stand in the docstrings) or words written out from the tables of spec/30_encoding.md. Then one witness for the hypotheses of every
statement of Certificates/Slice0/Obligations.lean. -/

namespace Sys2Proof.Tests

open Sys2Proof Sys2Proof.Machine

/-! ## The test configuration and small states -/

/-- The parameters TC of spec/95_test_vectors.md section 1. -/
def tc : Params where
  settleCycles := 1
  sector := 8
  page := 4
  filler := 0xFF
  erased := 0xEE
  flashSize := 0x200000
  stageOff := 0x100000
  ramWinBase := 0x20010000
  commImage := [0x4E, 0x71, 0x60, 0xFE]
  fifoDepth := 1
  debounceTicks := 2
  longTicks := 3
  netRetries := 3
  extAllowList := [[0x62, 0x69, 0x6E], [0x73, 0x74, 0x78]]
  fnameMax := 64
  ctrlPolarity := .activeHigh
  btnPolarity := .activeHigh

/-- The name A.BIN. -/
def nameBin : List Byte := [0x41, 0x2E, 0x42, 0x49, 0x4E]

/-- The file of vector FS-7: nine bytes. -/
def fileNine : List Byte := [0x10, 0x11, 0x12, 0x13, 0x14, 0x15, 0x16, 0x17, 0x18]

/-- A draw in which the environment answers everything well. -/
def goodDraw : Draw := ⟨0, 0, 0, true, true, true, true, true⟩

/-- A chip at its first reset, with one file on storage. -/
def boot0 : State := State.launch tc 0xBEEF ⟨none, none⟩ [⟨nameBin, fileNine⟩]

/-- With the Mode Controller in state q. -/
def inState (q : McState) (s : State) : State := { s with mc := { s.mc with state := q } }

/-- With the turn queue of these actions, every draw a good one. -/
def queue (as : List Action) (s : State) : State := { s with turns := as.map (fun a => ⟨a, goodDraw⟩) }

/-- Served and idle in SETUP_LOOP: the COMM image copied and armed, both monitors waiting for an access. -/
def served : State :=
  { boot0 with
    bus := { boot0.bus with armed := true, addrHi := 0x2001, bm0 := ⟨1, 0⟩, bm1 := ⟨1, 0⟩ }
    rl := ⟨false, .comm, 4, 4⟩
    ram := [(0x20010000, 0x4E), (0x20010001, 0x71), (0x20010002, 0x60), (0x20010003, 0xFE)]
    mc := { boot0.mc with state := .setupLoop, storageOk := true }
    draw := goodDraw }

/-- served, with the BR at UPC n and its HOLD h. -/
def brAt (n : BitVec 3) (h : BitVec 6) : State :=
  { served with bus := { served.bus with brUpc := n, brHold := h }, active := .br }

/-- The Flash Stager with the file open at position pos, the cursor at off. -/
def flashing (len pos off : BitVec 32) : State :=
  { inState .launchFlash served with fs := ⟨true, some ⟨nameBin⟩, len, pos, off, .ok⟩ }

/-- A load in progress at index i. -/
def copying (i : BitVec 17) : State :=
  { boot0 with rl := ⟨true, .comm, i, 4⟩, mc := { boot0.mc with state := .setupInit } }

/-- The state an outcome holds. -/
def nextOf : Result → Option State
  | .next s => some s
  | .fault _ => none
  | .refused _ => none

/-- What a field of the next state holds. -/
def view {α : Type} (r : Result) (f : State → α) : Option α := (nextOf r).map f

/-- The state n steps after s, or the last one reached. -/
def stateAfter : Nat → State → State
  | 0, s => s
  | n + 1, s => (nextOf (step (stateAfter n s))).getD (stateAfter n s)

theorem nextOf_eq_some {x : Result} {t : State} (h : nextOf x = some t) : x = .next t := by
  cases x with
  | next s => cases h; rfl
  | fault _ => cases h
  | refused _ => cases h

theorem stateAfter_step {n : Nat} {s : State} (h : (nextOf (step (stateAfter n s))).isSome = true) :
    step (stateAfter n s) = .next (stateAfter (n + 1) s) := by
  obtain ⟨t, ht⟩ := Option.isSome_iff_exists.mp h
  rw [nextOf_eq_some ht, show stateAfter (n + 1) s = t by simp [stateAfter, ht]]

theorem test_tc_meets_the_premises : tc.wf = true ∧ storageWf boot0.storage = true := by decide

/-! ## WellFormed: an ill-formed term for each check -/

theorem test_ctrlField_refuses_rw : MicroFields.ctrlFieldOk ⟨.none, .keep, true, .rw, 0⟩ = false := by decide

theorem test_ctrlField_refuses_ctrl_without_cw : MicroFields.ctrlFieldOk ⟨.none, .keep, false, .rnw, 0⟩ = false := by decide

theorem test_bm_refuses_sig_dir_cw :
    MicroFields.bmOk ⟨.sig, .keep, false, .nrnw, 0⟩ = false ∧ MicroFields.bmOk ⟨.none, .input, false, .nrnw, 0⟩ = false ∧
    MicroFields.bmOk ⟨.none, .keep, true, .nrnw, 0⟩ = false := by decide

theorem test_br_refuses_pins_and_bad_ctrl :
    MicroFields.brOk ⟨.pinLow, .keep, false, .nrnw, 0⟩ = false ∧ MicroFields.brOk ⟨.none, .keep, true, .rw, 0⟩ = false := by decide

theorem test_act_not_legal_in_the_agent :
    (Instr.raise ⟨.none, .keep, false, .nrnw, 0⟩).brWord = false ∧
    (Instr.capture ⟨.none, .keep, false, .nrnw, 0⟩).bmWord = false ∧
    (Instr.drive ⟨.none, .keep, false, .nrnw, 0⟩).bmWord = false := by decide

theorem test_wellFormed_refuses_a_word_of_no_agent :
    (Instr.step ⟨.pinHigh, .output, false, .nrnw, 0⟩).wellFormed = false ∧
    (Instr.raise ⟨.sig, .keep, false, .nrnw, 0⟩).wellFormed = false := by decide

/-! ## Decode: words written field by field, WAIT ++ DIR ++ CW ++ CTRL ++ ACT ++ HOLD (30_encoding.md R131) -/

/-- EN-6. -/
theorem test_decode_step :
    decodeFor .br (0b000#3 ++ 0b00#2 ++ 0b1#1 ++ 0b10#2 ++ 0b00#2 ++ 0b000001#6) =
      .instr (.step ⟨.none, .keep, true, .rnw, 1⟩) := by decide

/-- EN-3. -/
theorem test_decode_raise :
    decodeFor .bm1 (0b000#3 ++ 0b00#2 ++ 0b0#1 ++ 0b00#2 ++ 0b01#2 ++ 0b000000#6) =
      .instr (.raise ⟨.none, .keep, false, .nrnw, 0⟩) := by decide

/-- EN-7. -/
theorem test_decode_capture :
    decodeFor .br (0b000#3 ++ 0b00#2 ++ 0b0#1 ++ 0b00#2 ++ 0b10#2 ++ 0b000000#6) =
      .instr (.capture ⟨.none, .keep, false, .nrnw, 0⟩) := by decide

/-- EN-9. -/
theorem test_decode_drive :
    decodeFor .br (0b100#3 ++ 0b00#2 ++ 0b1#1 ++ 0b01#2 ++ 0b11#2 ++ 0b000000#6) =
      .instr (.drive ⟨.reply, .keep, true, .nrw, 0⟩) := by decide

/-- EN-20 to EN-23: reserved ++ M ++ OP (R143). -/
theorem test_decode_commands :
    decodeCommand (0b0000000#7 ++ 0b0#1 ++ 0x00#8) = .instr .nop ∧
    decodeCommand (0b0000000#7 ++ 0b0#1 ++ 0x01#8) = .instr (.launch .direct) ∧
    decodeCommand (0b0000000#7 ++ 0b1#1 ++ 0x01#8) = .instr (.launch .delay) ∧
    decodeCommand (0b0000000#7 ++ 0b0#1 ++ 0x02#8) = .instr .handoff := by decide

/-- EN-3, EN-4, EN-7, EN-11 to EN-14. -/
theorem test_decode_refusals :
    decodeFor .br 0x0040 = .refused .notForSequencer ∧ decodeFor .bm0 0x6000 = .refused .notForSequencer ∧
    decodeFor .bm0 0x0080 = .refused .notForSequencer ∧ decodeFor .br 0xA000 = .refused .reservedWait ∧
    decodeFor .br 0x1800 = .refused .reservedDir ∧ decodeFor .br 0x0700 = .refused .reservedCtrl ∧
    decodeFor .br 0x0100 = .refused .reservedCtrl := by decide

/-- EN-24 to EN-28. -/
theorem test_decode_reserved_commands :
    decodeCommand 0x0003 = .refused .reservedOp ∧ decodeCommand 0x0102 = .refused .strayM ∧
    decodeCommand 0x0100 = .refused .strayM ∧ decodeCommand 0x0201 = .refused .reservedBits ∧
    decodeCommand 0x8001 = .refused .reservedBits := by decide

/-- The table's view: one word of each row of opcode_table.json. -/
theorem test_decodeTableWord :
    decodeTableWord 16 0x2000 = some (.step ⟨.pinHigh, .keep, false, .nrnw, 0⟩) ∧
    decodeTableWord 16 0x0040 = some (.raise ⟨.none, .keep, false, .nrnw, 0⟩) ∧
    decodeTableWord 16 0x0080 = some (.capture ⟨.none, .keep, false, .nrnw, 0⟩) ∧
    decodeTableWord 16 0x00C0 = some (.drive ⟨.none, .keep, false, .nrnw, 0⟩) ∧
    decodeTableWord 16 0x0000 = some .nop ∧ decodeTableWord 16 0x0101 = some (.launch .delay) ∧
    decodeTableWord 16 0x0002 = some .handoff ∧ decodeTableWord 16 0xA000 = none := by decide

/-- The assembler forms of R140 and R152. -/
theorem test_assemble :
    (assembleMicro "drive wait=reply ctrl=nrw".toList).map encode = some 0x85C0 ∧
    (assembleMicro "settle 1".toList).map encode = some 0x0601 ∧
    (assembleMicro "release".toList).map encode = some 0x0C00 ∧
    assembleMenu "launch delay".toList = some (.writeCsr 3 0x0101) := by decide

/-- BR_PROG under TC (95 section 1). -/
theorem test_brProgram :
    brProgram tc.settleCycles = [0x6000, 0x0C00, 0x0601, 0x0080, 0x1000, 0x85C0, 0x0001, 0x0C00] := by decide

/-! ## The micro-word instructions -/

/-- BM-3 and BM-4: `wait_low` at UPC 1 proceeds while the line is low and stalls while it is high. -/
theorem test_step_wait_low :
    view (seqTurn .bm0 { served with out := { served.out with cs1 := .low } }) (fun t => t.bus.bm0.upc) = some 2 ∧
    view (seqTurn .bm0 served) (fun t => t.bus.bm0.upc) = some 1 := by decide

/-- BR-4 and BR-5: the settle word loads HOLD, then the hold cycle ends it. -/
theorem test_step_settle :
    view (seqTurn .br (brAt 2 0)) (fun t => (t.bus.ctrl, t.bus.brHold, t.bus.brUpc)) = some (.rnw, 1, 2) ∧
    view (seqTurn .br { brAt 2 1 with bus := { (brAt 2 1).bus with ctrl := .rnw } })
      (fun t => (t.bus.ctrl, t.bus.brHold, t.bus.brUpc)) = some (.rnw, 0, 3) := by decide

/-- BM-5 and BM-6: SIG is 1 after a raise, whatever it was. -/
theorem test_raise :
    view (seqTurn .bm1 { served with bus := { served.bus with bm1 := ⟨2, 0⟩ } }) (fun t => (t.bus.sig, t.bus.bm1.upc)) =
      some (true, 0) ∧
    view (seqTurn .bm1 { served with bus := { served.bus with bm1 := ⟨2, 0⟩, sig := true } }) (fun t => t.bus.sig) =
      some true := by decide

/-- A BR step at UPC 3 with the address on slot 2. -/
def capturing (a : Word16) : State :=
  { brAt 3 0 with
    bus := { (brAt 3 0).bus with ctrl := .rnw }
    out := { served.out with cs2 := .low, addr2 := a } }

/-- BR-6 and EN-30, on CS2_n. -/
theorem test_capture :
    view (seqTurn .br (capturing 0x0002)) (fun t => (t.bus.cap, t.bus.addrFifo, t.bus.brUpc)) =
      some (0x20010002, [0x20010002], 4) ∧
    view (seqTurn .br (capturing 0x1235)) (fun t => t.bus.cap) = some 0x20011234 := by decide

/-- BR-8: with ADDR_FIFO full the capture stalls. -/
theorem test_capture_stalls :
    view (seqTurn .br { capturing 2 with bus := { (capturing 2).bus with addrFifo := [8] } })
      (fun t => (t.bus.cap, t.bus.brUpc)) = some (0, 3) := by decide

/-- BR-11: the reply is driven whole. -/
theorem test_drive :
    view (seqTurn .br { brAt 5 0 with bus := { (brAt 5 0).bus with replyFifo := [0xFE60], ctrl := .rnw, dir := .output } })
      (fun t => (t.bus.dout, t.bus.ctrl, t.bus.replyFifo, t.bus.brUpc)) = some (0xFE60, .nrw, [], 6) := by decide

/-- BR-10: with REPLY_FIFO empty the drive stalls. -/
theorem test_drive_stalls :
    view (seqTurn .br { brAt 5 0 with bus := { (brAt 5 0).bus with ctrl := .rnw } }) (fun t => (t.bus.ctrl, t.bus.brUpc)) =
      some (.rnw, 5) := by decide

/-! ## Commands -/

/-- CM-1 and CM-9. -/
theorem test_nop :
    view (writeCmd 0x0000 { served with mc := { served.mc with lastError := .networkTimeout } }) (fun t => t.mc.lastError) =
      some .networkTimeout ∧
    view (writeCmd 0x0000 (inState .delayWait boot0)) (fun t => t.mc.lastError) = some .none := by decide

/-- CM-3. -/
theorem test_launch_delay :
    view (writeCmd 0x0101 { served with menu := { served.menu with fname := nameBin } })
      (fun t => (t.mc.state, t.mc.pendFile, t.mc.pendMode, t.mc.lastError)) = some (.launchCheck, nameBin, 0x01, .none) := by
  decide

/-- CM-8 and CM-12. -/
theorem test_launch_rejected_or_ignored :
    view (writeCmd 0x0001 (inState .delayWait boot0)) (fun t => (t.mc.state, t.mc.lastError)) =
      some (.delayWait, .commandRejected) ∧
    view (writeCmd 0x0001 (inState .fatal served)) (fun t => (t.mc.state, t.mc.lastError)) = some (.fatal, .none) := by decide

/-- CM-4 and CM-6. -/
theorem test_handoff :
    view (writeCmd 0x0002 served) (fun t => (t.mc.state, t.mc.lastError)) = some (.handoffPersist, .none) ∧
    view (writeCmd 0x0102 served) (fun t => (t.mc.state, t.mc.lastError)) = some (.setupLoop, .commandRejected) := by decide

/-! ## The other agents -/

/-- LU-3 and LU-4. -/
theorem test_lookup :
    (luStep { served with bus := { served.bus with addrFifo := [0x20010002] } }).bus.replyFifo = [0xFE60] ∧
    (luStep served).bus.replyFifo = [] := by decide

/-- HS-1 and HS-2. -/
theorem test_hostSample :
    hostSees { served with bus := { served.bus with dir := .output, ctrl := .nrw, dout := 0xFE60 } } = ⟨0xFE60, true⟩ ∧
    (hostSees { served with bus := { served.bus with dir := .output, ctrl := .rnw, dout := 0xFE60 } }).answered = false := by
  decide

/-- RL-1, RL-2 for one byte, and RL-5. -/
theorem test_loader :
    (rlInvoke .comm boot0).rl = ⟨true, .comm, 0, 4⟩ ∧
    view (rlStep (copying 3)) (fun t => (ramByte t 0x20010003, t.rl.idx)) = some (0xFE, 4) ∧
    view (rlStep { copying 3 with bus := served.bus }) (fun t => (t.mc.lastError, t.mc.state, t.mc.fatalF, t.ram)) =
      some (.busArmError, .fatal, true, []) := by decide

/-- RL-3. -/
theorem test_arm :
    view (rlStep (copying 4)) (fun t => (t.bus.armed, t.bus.addrHi, t.rl.busy, t.bus.dout)) =
      some (true, 0x2001, false, 0xBEEF) := by decide

/-- FS-7: the last chunk of one byte, padded and swapped. -/
theorem test_chunk :
    view (fsStep (flashing 9 8 0x100008)) (fun t => (flashByte t 0x100008, flashByte t 0x100009, flashByte t 0x10000A)) =
      some (0xFF, 0x18, 0xFF) ∧
    view (fsStep (flashing 9 8 0x100008)) (fun t => (flashByte t 0x10000C, t.fs.pos, t.fs.off)) =
      some (0xEE, 9, 0x100009) := by decide

/-- FS-1 and FS-2. -/
theorem test_start_errors :
    view (fsStep { served with fs := ⟨true, none, 0, 0, 0x100004, .ok⟩ }) (fun t => (t.fs.result, t.fs.busy)) =
      some (.alignmentError, false) ∧
    view (fsStep { served with fs := ⟨true, none, 0, 0, 0x100000, .ok⟩ }) (fun t => (t.fs.result, t.fs.busy)) =
      some (.storageError, false) := by decide

/-- FS-6: the header of a 12-byte file is skipped. -/
theorem test_header_skip :
    view (fsStep
      { served with
        storage := [⟨nameBin, [0, 0, 0, 0, 0x11, 0x22, 0x33, 0x44, 0x55, 0x66, 0x77, 0x88]⟩]
        mc := { served.mc with pendFile := nameBin }
        fs := ⟨true, none, 0, 0, 0x100000, .ok⟩ }) (fun t => (t.fs.len, t.fs.pos, t.fs.handle)) =
      some (12, 4, some ⟨nameBin⟩) := by decide

/-- MC-1 to MC-4. -/
theorem test_boot :
    (mcStep boot0).mc.state = .setupStage ∧ (mcStep { boot0 with nv := ⟨some 0x00, none⟩ }).mc.state = .emuStage ∧
    (mcStep { boot0 with nv := ⟨some 0x01, none⟩ }).mc.state = .delayWait ∧
    (mcStep { boot0 with nv := ⟨some 0x07, none⟩ }).mc.mode = .setup := by decide

/-- MC-11, MC-13, MC-15, MC-16. -/
theorem test_extension_check :
    eligible tc nameBin = true ∧ eligible tc [0x4E, 0x2E, 0x54, 0x58, 0x54] = false ∧
    eligible tc [0x58, 0x2E, 0x42, 0x49, 0x4E, 0x2E, 0x54, 0x58, 0x54] = false ∧ eligible tc [0x2E, 0x62, 0x69, 0x6E] = true := by
  decide

/-- DB-1. -/
theorem test_debouncer :
    (ticks [true, true, false, true, true, false, false] boot0).db = ⟨false, 0, 3, .long, false⟩ ∧
    (ticks [true, true, false, false] boot0).db.evt = .short := by decide

/-- CS-3, CS-4 and DB-5. -/
theorem test_status_registers :
    statusWord { inState .launchFlash served with fs := { served.fs with busy := true } } = 0x0789 ∧
    csrValue 1 boot0 = 0x00FF ∧
    csrValue 5 { served with db := { served.db with evt := .short, lpEn := true } } = 0x000A := by decide

/-- RS-1. -/
theorem test_device_reset :
    (deviceReset { brAt 6 0 with nv := ⟨some 0x01, none⟩ }).bus.brUpc = 0 ∧
    (deviceReset { brAt 6 0 with nv := ⟨some 0x01, none⟩ }).bus.armed = false ∧
    (deviceReset { brAt 6 0 with nv := ⟨some 0x01, none⟩ }).nv = ⟨some 0x01, none⟩ := by decide

/-! ## withFetchWord -/

theorem test_withFetchWord_micro :
    view (step (boot0.withFetchWord 16 0x0040)) (fun t => (t.bus.sig, t.bus.bm0.upc)) = some (true, 1) := by decide

theorem test_withFetchWord_command :
    view (step (boot0.withFetchWord 16 0x0002)) (fun t => t.mc.lastError) = some .commandRejected := by decide

/-! ## States that meet the invariants -/

/-- The bus part of `served`, for a state that has its bus registers, programs, parameters and RAM. -/
theorem busInv_served : BusInv served where
  bmProg := rfl
  brProg := rfl
  monitor0 := ⟨by decide, rfl⟩
  monitor1 := ⟨by decide, rfl⟩
  phase := ⟨rfl, rfl, ⟨rfl, rfl⟩, rfl⟩
  holdBound := by decide
  capEven := by decide
  addrHi := fun _ => by decide
  capInWin := by decide
  disarmed := by decide

theorem mcInv_served : McInv served where
  lpEn := rfl
  resetReq := rfl
  handoff := rfl
  noFatal := ⟨rfl, by decide⟩
  rlBusy := by decide
  fsBusy := by decide
  before := by decide
  loading := by decide
  after := by decide
  setupMode := by decide
  emuMode := by decide
  pendMode := .inl rfl
  nvSetup := by decide

theorem loadInv_served : LoadInv served where
  bounds := by decide
  copied := by
    intro _ i hi
    have hi : i < 4 := hi
    interval_cases i <;> decide
  whole := by decide
  source := by decide

/-- `served` meets the whole machine's invariant. -/
theorem witness_served_inv : MachineInv served where
  bus := busInv_served
  mc := mcInv_served
  debounce := ⟨.inl rfl, by decide⟩
  load := fun _ => loadInv_served
  stager := fun _ => ⟨by decide, by decide⟩

/-- The Mode Controller's invariant while a request runs. -/
theorem mcInv_flashing (len pos off : BitVec 32) : McInv (flashing len pos off) where
  lpEn := rfl
  resetReq := rfl
  handoff := rfl
  noFatal := ⟨rfl, by show McState.launchFlash ≠ .fatal; decide⟩
  rlBusy := fun h => by cases h
  fsBusy := fun _ => rfl
  before := fun h => by cases h
  loading := fun h => by cases h
  after := fun _ => rfl
  setupMode := fun _ => rfl
  emuMode := fun h => by cases h
  pendMode := .inl rfl
  nvSetup := fun _ => rfl

/-- A chunk step at the start of the nine-byte file meets the invariant. -/
theorem witness_flashing_inv : MachineInv (flashing 9 0 0x100000) where
  bus := ⟨rfl, rfl, busInv_served.monitor0, busInv_served.monitor1, busInv_served.phase, busInv_served.holdBound,
      busInv_served.capEven, busInv_served.addrHi, busInv_served.capInWin, busInv_served.disarmed⟩
  mc := mcInv_flashing 9 0 0x100000
  debounce := ⟨.inl rfl, by decide⟩
  load := fun _ => ⟨loadInv_served.bounds, loadInv_served.copied, loadInv_served.whole, loadInv_served.source⟩
  stager := fun _ =>
    { start := by decide
      chunk := by
        intro _ h hh
        cases hh
        exact ⟨⟨fileNine, by decide, by decide⟩, by decide, .inl (by decide), by decide, by decide⟩ }

/-- A chunk step at the end of the nine-byte file meets it too, the cursor past the last byte. -/
theorem witness_flashing_end_inv : MachineInv (flashing 9 9 0x100009) where
  bus := ⟨rfl, rfl, busInv_served.monitor0, busInv_served.monitor1, busInv_served.phase, busInv_served.holdBound,
      busInv_served.capEven, busInv_served.addrHi, busInv_served.capInWin, busInv_served.disarmed⟩
  mc := mcInv_flashing 9 9 0x100009
  debounce := ⟨.inl rfl, by decide⟩
  load := fun _ => ⟨loadInv_served.bounds, loadInv_served.copied, loadInv_served.whole, loadInv_served.source⟩
  stager := fun _ =>
    { start := by decide
      chunk := by
        intro _ h hh
        cases hh
        exact ⟨⟨fileNine, by decide, by decide⟩, by decide, .inr rfl, by decide, by decide⟩ }

/-! ## Witnesses for the hypotheses of the statements, in their order -/

theorem witness_DecodeReadsEveryEncodedInstruction :
    Instr.legalFor .br (.drive ⟨.reply, .output, true, .rnw, 63⟩) = true ∧
    Instr.legalFor .bm1 (.raise ⟨.pinLow, .keep, false, .nrnw, 63⟩) = true ∧ (Instr.launch .delay).isCommand = true := by
  decide

theorem witness_DecodedMicroWordEncodesBack :
    decodeFor .br 0x85C0 = .instr (.drive ⟨.reply, .keep, true, .nrw, 0⟩) := by decide

theorem witness_MicroWordWellFormedExactly :
    (∃ i, decodeFor .bm0 0x407F = .instr i) ∧ (∃ i, decodeFor .br 0x96FF = .instr i) ∧
    ¬ (∃ i, decodeFor .br 0x2000 = .instr i) := by
  refine ⟨⟨_, rfl⟩, ⟨_, rfl⟩, ?_⟩
  rintro ⟨i, hi⟩
  have : decodeFor .br 0x2000 = .refused .notForSequencer := by decide
  rw [this] at hi
  cases hi

theorem witness_ReservedMicroWordsRefused :
    (5 ≤ ((0xA000 : Word16).extractLsb' 13 3).toNat ∧ (0x1800 : Word16).extractLsb' 11 2 = 3 ∧
      (0x0700 : Word16).getLsbD 10 = true ∧ (0x0700 : Word16).extractLsb' 8 2 = 3 ∧
      (0x0100 : Word16).getLsbD 10 = false ∧ (0x0100 : Word16).extractLsb' 8 2 ≠ 0 ∧
      (0x0040 : Word16).extractLsb' 6 2 = 1 ∧ 2 ≤ ((0x0080 : Word16).extractLsb' 6 2).toNat) ∧
    fetchWord .br { boot0 with brProg := [0xA000] } = some 0xA000 ∧ BusInv served :=
  ⟨by decide, by decide, busInv_served⟩

theorem witness_ModeCodeRoundTrip : (0x02 : Byte) ≠ 0x00 ∧ (0x02 : Byte) ≠ 0x01 ∧ (0xFE : Byte) ≠ 0x00 := by decide

theorem witness_StepRunsTheDecodedInstruction :
    (queue [.seq .bm0] served).turns = [⟨.seq .bm0, goodDraw⟩] ∧
    (nextTurn (queue [.seq .bm0] served)).action = .seq .bm0 ∧
    (progOf .bm0 (queue [.seq .bm0] served))[upcOf .bm0 (queue [.seq .bm0] served)]? = some 0x4000 ∧
    decodeFor .bm0 0x4000 = .instr (.step ⟨.pinLow, .keep, false, .nrnw, 0⟩) ∧
    (nextTurn (queue [.writeCsr 3 0x0002] served)).action = .writeCsr 3 0x0002 ∧
    decodeCommand 0x0002 = .instr .handoff := by decide

theorem witness_WaitConditionTable :
    microFields (.drive ⟨.reply, .keep, true, .nrw, 0⟩) ⟨.reply, .keep, true, .nrw, 0⟩ ∧
    Instr.legalFor .br (.drive ⟨.reply, .keep, true, .nrw, 0⟩) = true ∧
    Instr.legalFor .bm1 (.raise ⟨.pinHigh, .keep, false, .nrnw, 0⟩) = true ∧
    microFields (.raise ⟨.pinHigh, .keep, false, .nrnw, 0⟩) ⟨.pinHigh, .keep, false, .nrnw, 0⟩ :=
  ⟨.inr (.inr (.inr rfl)), by decide, by decide, .inr (.inl rfl)⟩

theorem witness_StepInstructionResultAndFrame :
    mayRun (.step ⟨.sig, .output, true, .rnw, 63⟩) { brAt 7 0 with bus := { (brAt 7 0).bus with sig := true } } ∧
    waitReady .br .sig { brAt 7 0 with bus := { (brAt 7 0).bus with sig := true } } = true :=
  ⟨⟨by decide, by decide, by decide, by decide, by decide⟩, by decide⟩

theorem witness_RaiseInstructionResultAndFrame :
    mayRun (.raise ⟨.pinHigh, .keep, false, .nrnw, 0⟩) served ∧ waitReady served.active .pinHigh served = true :=
  ⟨⟨by decide, by decide, by decide, by decide, by decide⟩, by decide⟩

theorem witness_CaptureInstructionResultAndFrame :
    mayRun (.capture ⟨.none, .keep, false, .nrnw, 0⟩) (capturing 0xFFFF) ∧
    waitReady .br .none (capturing 0xFFFF) = true ∧
    (capturing 0xFFFF).bus.addrFifo.length < (capturing 0xFFFF).params.fifoDepth :=
  ⟨⟨by decide, by decide, by decide, by decide, by decide⟩, by decide, by decide⟩

theorem witness_DriveInstructionResultAndFrame :
    mayRun (.drive ⟨.reply, .keep, true, .nrw, 0⟩) { brAt 5 0 with bus := { (brAt 5 0).bus with replyFifo := [0xFE60] } } ∧
    waitReady .br .reply { brAt 5 0 with bus := { (brAt 5 0).bus with replyFifo := [0xFE60] } } = true ∧
    ({ brAt 5 0 with bus := { (brAt 5 0).bus with replyFifo := [0xFE60] } } : State).bus.replyFifo = 0xFE60 :: [] :=
  ⟨⟨by decide, by decide, by decide, by decide, by decide⟩, by decide, rfl⟩

/-- One state and micro-word for each way to stall: disarmed, the wait-condition, a full ADDR_FIFO, an empty REPLY_FIFO. -/
theorem witness_StalledMicroWordChangesNothing :
    (∃ (i : Instr) (f : MicroFields) (s : State), microFields i f ∧ i.legalFor s.active = true ∧ s.bus.armed = false) ∧
    (∃ (i : Instr) (f : MicroFields) (s : State), microFields i f ∧ i.legalFor s.active = true ∧ holdOf s.active s = 0 ∧
      waitReady s.active f.wait s = false) ∧
    (∃ (i : Instr) (f : MicroFields) (s : State), microFields i f ∧ i.legalFor s.active = true ∧ holdOf s.active s = 0 ∧
      i = .capture f ∧ s.params.fifoDepth ≤ s.bus.addrFifo.length) ∧
    (∃ (i : Instr) (f : MicroFields) (s : State), microFields i f ∧ i.legalFor s.active = true ∧ holdOf s.active s = 0 ∧
      i = .drive f ∧ s.bus.replyFifo = []) :=
  ⟨⟨.raise ⟨.none, .keep, false, .nrnw, 0⟩, _, boot0, .inr (.inl rfl), by decide, by decide⟩,
    ⟨.step ⟨.sig, .keep, false, .nrnw, 0⟩, _, brAt 0 0, .inl rfl, by decide, by decide, by decide⟩,
    ⟨.capture ⟨.none, .keep, false, .nrnw, 0⟩, _, { brAt 3 0 with bus := { (brAt 3 0).bus with addrFifo := [8] } },
      .inr (.inr (.inl rfl)), by decide, by decide, rfl, by decide⟩,
    ⟨.drive ⟨.none, .keep, false, .nrnw, 0⟩, _, brAt 5 0, .inr (.inr (.inr rfl)), by decide, by decide, rfl, by decide⟩⟩

/-- HOLD at 1, the last hold cycle, and at 63, the largest count. -/
theorem witness_HoldCycleOnlyCountsDown :
    microFields (.step ⟨.none, .keep, false, .nrnw, 1⟩) ⟨.none, .keep, false, .nrnw, 1⟩ ∧
    Instr.legalFor .br (.step ⟨.none, .keep, false, .nrnw, 1⟩) = true ∧
    ((brAt 6 1).bus.armed = true ∧ holdOf .br (brAt 6 1) ≠ 0 ∧ holdOf .br (brAt 6 63) ≠ 0) ∧ programsSized (brAt 6 63) :=
  ⟨.inl rfl, by decide, by decide, by decide, by decide⟩

theorem witness_CaptureSamplesThePresentedAddress :
    ((capturing 0xFFFF).bus.dir = .input ∧ (capturing 0xFFFF).bus.ctrl = .rnw ∧ (capturing 0xFFFF).out.cs1 = .high ∧
      (capturing 0xFFFF).out.cs2 = .low) ∧
    ({ capturing 0 with out := { served.out with cs1 := .low } } : State).out.cs2 = .high ∧
    (served.out.cs1 = .high ∧ served.out.cs2 = .high) ∧ served.bus.ctrl ≠ .rnw := by decide

theorem witness_NopCommandChangesNothing :
    served.mc.state.isTerminal = false ∧ (inState .handedOff served).mc.state.isTerminal = true := by decide

theorem witness_LaunchCommandResultAndFrame :
    served.mc.state = .setupLoop ∧
    ((inState .storageWait served).mc.state ≠ .setupLoop ∧ (inState .storageWait served).mc.state.isTerminal = false) ∧
    (inState .resetReq served).mc.state.isTerminal = true := by decide

theorem witness_HandoffCommandResultAndFrame :
    served.mc.state = .setupLoop ∧
    ((inState .boot boot0).mc.state ≠ .setupLoop ∧ (inState .boot boot0).mc.state.isTerminal = false) ∧
    (inState .fatal served).mc.state.isTerminal = true := by decide

/-- LU-1, LU-4, LU-5, LU-6. -/
theorem witness_LookupStepReadsTheWindow :
    (∃ s : State, s.bus.armed = true ∧ s.bus.addrFifo = 0x2001FFFE :: [] ∧ s.bus.replyFifo.length < s.params.fifoDepth) ∧
    boot0.bus.armed = false ∧ served.bus.addrFifo = [] ∧ tc.fifoDepth ≤ [(0 : Word16)].length :=
  ⟨⟨{ served with bus := { served.bus with addrFifo := [0x2001FFFE] } }, by decide, rfl, by decide⟩, by decide, by decide,
    by decide⟩

/-- The first and the last byte of the COMM image, and a byte of the staging region. -/
theorem witness_CopyStepCopiesOneByte :
    (premises (copying 0) = true ∧ (copying 0).rl.busy = true ∧ (copying 0).bus.armed = false ∧
      (copying 0).rl.idx.toNat < (copying 0).rl.len.toNat ∧ (copying 3).rl.idx.toNat < (copying 3).rl.len.toNat ∧
      (copying 3).rl.len.toNat = loadLength tc .comm) ∧
    (⟨true, .rom, 65535, 65536⟩ : Loader).len.toNat = loadLength tc .rom := by decide

theorem witness_ArmStepArmsThePair :
    (copying 4).rl.busy = true ∧ (copying 4).rl.idx = (copying 4).rl.len ∧ (copying 4).bus.armed = false := by decide

/-- A copy step and an ARM step that find the pair armed. -/
theorem witness_RearmIsFatal :
    (({ copying 0 with bus := served.bus } : State).rl.busy = true ∧
      ({ copying 0 with bus := served.bus } : State).bus.armed = true) ∧
    (copying 0).rl.idx.toNat ≤ (copying 0).rl.len.toNat ∧ (copying 4).rl.idx.toNat ≤ (copying 4).rl.len.toNat := by decide

theorem witness_WholeLoadCopiesTheImageThenArms :
    premises boot0 = true ∧ boot0.rl.busy = false ∧ boot0.bus.armed = false := by decide

theorem witness_FlashRequestInvocation :
    served.fs.busy = false ∧ (inState .emuWaitExit boot0).mc.state.isEmulation = true ∧
    served.mc.state.isEmulation = false := by decide

/-- A start step at the staging region, with this storage content and this draw. -/
def starting (files : List StoredFile) (d : Draw) : State :=
  { served with
    fs := ⟨true, none, 0, 0, 0x100000, .ok⟩, mc := { served.mc with pendFile := nameBin }, storage := files, draw := d }

/-- FS-1, FS-2 (an open that fails, and a file that STORAGE does not hold), FS-14, FS-6, FS-5, FS-4 and FS-3, FS-11 and the length just
below it: every clause, at the boundary values of the length. -/
theorem witness_FlashStartStepCases :
    (∃ s : State, s.fs.busy = true ∧ s.fs.handle = none ∧ s.fs.off.toNat % s.params.sector ≠ 0) ∧
    ((starting [] Draw.zero).fs.busy = true ∧ (starting [] Draw.zero).fs.handle = none ∧
      (starting [] Draw.zero).fs.off.toNat % tc.sector = 0 ∧ (starting [] Draw.zero).draw.opens = false) ∧
    ((starting [] goodDraw).draw.opens = true ∧
      lookupFile (starting [] goodDraw).mc.pendFile (starting [] goodDraw).storage = none) ∧
    ((starting [⟨nameBin, List.replicate 12 0⟩] { goodDraw with reads := false }).draw.reads = false ∧
      (4 < (List.replicate 12 (0 : Byte)).length ∧ ((List.replicate 12 (0 : Byte)).length - 4) % tc.sector = 0)) ∧
    ((List.replicate 12 (0 : Byte)).take 4 = [0, 0, 0, 0] ∧
      ([0, 0, 0, 1, 0xA0, 0xA1, 0xA2, 0xA3, 0xA4, 0xA5, 0xA6, 0xA7] : List Byte).take 4 ≠ [0, 0, 0, 0]) ∧
    (¬(4 < (List.replicate 4 (0 : Byte)).length ∧ ((List.replicate 4 (0 : Byte)).length - 4) % tc.sector = 0) ∧
      ¬(4 < ([] : List Byte).length ∧ (([] : List Byte).length - 4) % tc.sector = 0)) ∧
    ∀ file : List Byte,
      lookupFile (starting [⟨nameBin, file⟩] goodDraw).mc.pendFile (starting [⟨nameBin, file⟩] goodDraw).storage = some file ∧
      (starting [⟨nameBin, file⟩] goodDraw).draw.opens = true :=
  ⟨⟨{ served with fs := ⟨true, none, 0, 0, 0x100004, .ok⟩ }, by decide⟩, by decide, by decide, by decide, by decide, by decide,
    fun _ => ⟨rfl, rfl⟩⟩

/-- The size check on either side of STAGE_SIZE: both lengths are no header's, so nothing is skipped. -/
theorem witness_FlashStartStepCases_size :
    (¬ stageSize < (List.replicate 65536 (0 : Byte)).length - 0 ∧ stageSize < (List.replicate 65537 (0 : Byte)).length - 0) ∧
    ((List.replicate 65536 (0 : Byte)).length - 4) % tc.sector ≠ 0 ∧
    ((List.replicate 65537 (0 : Byte)).length - 4) % tc.sector ≠ 0 ∧ (List.replicate 65537 (0 : Byte)).length < 2 ^ 32 := by
  rw [List.length_replicate, List.length_replicate]
  decide

/-- The shortest and an ordinary even-length buffer. -/
theorem witness_ByteSwapIsAnInvolution :
    ([] : List Byte).length % 2 = 0 ∧ ([0x11, 0x22, 0x33, 0x44] : List Byte).length % 2 = 0 := by decide

theorem witness_PaddingIsTheLeastPageMultiple : tc.wf = true ∧ 5 % tc.page ≠ 0 ∧ 8 % tc.page = 0 ∧ 5 ≤ 8 := by decide

theorem witness_FlashChunkStepProgramsOneSector :
    MachineInv (flashing 9 0 0x100000) ∧
    (premises (flashing 9 0 0x100000) = true ∧ (flashing 9 0 0x100000).fs.busy = true ∧
      (flashing 9 0 0x100000).fs.handle = some ⟨nameBin⟩ ∧ (flashing 9 0 0x100000).fs.pos ≠ (flashing 9 0 0x100000).fs.len ∧
      (flashing 9 0 0x100000).draw.reads = true ∧ (flashing 9 0 0x100000).draw.verifies = true ∧
      lookupFile nameBin (flashing 9 0 0x100000).storage = some fileNine) :=
  ⟨witness_flashing_inv, by decide⟩

/-- The three endings: the payload done, a read error, a failed verify. -/
theorem witness_FlashChunkStepEndings :
    (MachineInv (flashing 9 9 0x100009) ∧ (flashing 9 9 0x100009).fs.pos = (flashing 9 9 0x100009).fs.len) ∧
    (MachineInv (flashing 9 0 0x100000) ∧ premises (flashing 9 0 0x100000) = true ∧
      (flashing 9 0 0x100000).fs.pos ≠ (flashing 9 0 0x100000).fs.len) ∧
    ({ goodDraw with reads := false } : Draw).reads = false ∧ ({ goodDraw with verifies := false } : Draw).verifies = false :=
  ⟨⟨witness_flashing_end_inv, by decide⟩, ⟨witness_flashing_inv, by decide, by decide⟩, by decide, by decide⟩

theorem witness_SuccessfulRequestProgramsThePayload :
    MachineInv (flashing 9 0 0x100000) ∧
    ((flashing 9 0 0x100000).fs.busy = true ∧ (flashing 9 0 0x100000).draw.reads = true ∧
      (flashing 9 0 0x100000).draw.verifies = true ∧ lookupFile nameBin (flashing 9 0 0x100000).storage = some fileNine ∧
      (flashing 9 0 0x100000).fs.off.toNat = (flashing 9 0 0x100000).params.stageOff) :=
  ⟨witness_flashing_inv, by decide⟩

theorem witness_BootBranchesOnThePersistedMode :
    firmwareIdle boot0 ∧ boot0.mc.state = .boot ∧ decodeMode (some 0x01) = .delay ∧ decodeMode boot0.nv.mode ≠ .delay :=
  ⟨⟨rfl, rfl⟩, by decide, by decide, by decide⟩

theorem witness_StagingStatesInvokeTheLoader :
    firmwareIdle (inState .setupStage boot0) ∧ (inState .setupStage boot0).mc.state = .setupStage ∧
    boot0.params.commImage.length < 2 ^ 17 ∧ (inState .emuStage boot0).mc.state = .emuStage :=
  ⟨⟨rfl, rfl⟩, by decide, by decide, by decide⟩

theorem witness_SetupInitChecksStorageThenNetwork :
    firmwareIdle (inState .setupInit served) ∧ (inState .setupInit served).mc.state = .setupInit ∧
    Draw.zero.present = false ∧ (goodDraw.present = true ∧ goodDraw.connects = true) ∧
    ({ goodDraw with connects := false } : Draw).connects = false :=
  ⟨⟨rfl, rfl⟩, by decide, by decide, by decide, by decide⟩

/-- Each wait state with each event it answers to. -/
theorem witness_OperatorWaits :
    firmwareIdle (inState .storageWait served) ∧ (setEvent .long (inState .emuWaitExit served)).db.evt = .long ∧
    ((inState .storageWait served).mc.state = .storageWait ∧ (inState .storageWait served).db.evt ≠ .long ∧
      (inState .storageWait served).draw.present = true ∧ Draw.zero.present = false) ∧
    ((setEvent .short (inState .delayWait boot0)).mc.state = .delayWait ∧
      (setEvent .short (inState .delayWait boot0)).db.evt = .short) ∧
    (inState .delayWait boot0).db.evt = .none :=
  ⟨⟨rfl, rfl⟩, by decide, by decide, by decide, by decide⟩

theorem witness_LaunchCheckComparesTheExtension :
    (0x2E : Byte) ∉ ([0x42, 0x49, 0x4E] : List Byte) ∧ (0x2E : Byte) ∉ ([] : List Byte) ∧
    firmwareIdle (inState .launchCheck served) ∧
    (∃ e ∈ tc.extAllowList, e.map foldCase = (extension nameBin).map foldCase) ∧
    ¬ (∃ e ∈ tc.extAllowList, e.map foldCase = (extension []).map foldCase) :=
  ⟨by decide, by decide, ⟨rfl, rfl⟩, by decide, by decide⟩

theorem witness_LaunchRecordAndFlashResult :
    firmwareIdle (inState .launchRecord served) ∧ (inState .launchRecord served).mc.state = .launchRecord ∧
    ((inState .launchFlash served).mc.state = .launchFlash ∧ (inState .launchFlash served).fs.result = .ok) ∧
    (fsFinish .notEligible (inState .launchFlash served)).fs.result ≠ .ok :=
  ⟨⟨rfl, rfl⟩, by decide, by decide, by decide⟩

theorem witness_PersistStatesWriteTheStore :
    firmwareIdle (inState .launchPersist served) ∧ (inState .launchPersist served).mc.state = .launchPersist ∧
    (inState .handoffPersist served).mc.state = .handoffPersist ∧ (inState .exitPersist served).mc.state = .exitPersist ∧
    (inState .factoryReset served).mc.state = .factoryReset :=
  ⟨⟨rfl, rfl⟩, by decide, by decide, by decide, by decide⟩

theorem witness_ModeControllerStandsStill :
    (copying 0).rl.busy = true ∧ (flashing 9 0 0x100000).fs.busy = true ∧ served.mc.state = .setupLoop ∧
    (inState .handedOff served).mc.state = .handedOff ∧ (inState .fatal served).mc.state = .fatal := by decide

/-! ### Whole-machine rules: a step that has the premise -/

theorem witness_PersistedModeWrittenOnlyBeforeReset :
    view (step (queue [.mc] (inState .launchPersist served))) (fun t => t.nv.mode) = some (some 0x00) ∧
    served.nv.mode = none := by decide

theorem witness_ModeWrittenOnlyByBoot :
    view (step (queue [.mc] { boot0 with nv := ⟨some 0x01, none⟩ })) (fun t => t.mc.mode) = some .delay ∧
    boot0.mc.mode = .setup := by decide

theorem witness_HandoffOnlyFromSetupLoop :
    view (step (queue [.writeCsr 3 0x0002] served)) (fun t => t.mc.state) = some .handoffPersist ∧
    served.mc.state ≠ .handoffPersist := by decide

theorem witness_ArmedImageStaysUntilReset :
    served.bus.armed = true ∧ (nextOf (step (queue [.rl] served))).isSome = true ∧
    (nextTurn (queue [.rl] served)).action ≠ .deviceReset := by decide

/-- A boot whose first Mode Controller step is followed by a device reset. -/
def interrupted (n : Nat) : State := stateAfter n (queue [.mc, .deviceReset] boot0)

theorem witness_FatalLeftOnlyByReset :
    ((fatal .busArmError served).mc.state = .fatal ∧ (fatal .busArmError served).mc.fatalF = true ∧
      (nextOf (step (queue [.mc] (fatal .busArmError served)))).isSome = true) ∧
    EndedRun interrupted 1 .interrupted := by
  refine ⟨by decide, rfl, ?_, ?_, by decide⟩
  · intro i hi
    have h : ∀ i : Fin 2, (nextOf (step (interrupted i))).isSome = true := by decide
    exact stateAfter_step (h ⟨i, by omega⟩)
  · intro i hi
    obtain rfl : i = 0 := by omega
    decide

theorem witness_OnlyTheNamedWriters :
    view (step (queue [.seq .br] (brAt 1 0))) (fun t => t.bus.brUpc) = some 2 ∧
    view (step (queue [.seq .br] { brAt 2 0 with bus := { (brAt 2 0).bus with sig := true } })) (fun t => t.bus.ctrl) =
      some .rnw ∧
    view (step (queue [.rl] (copying 0))) (fun t => ramByte t 0x20010000) = some 0x4E ∧
    view (step (queue [.mc] (inState .factoryReset { served with nv := ⟨some 0x00, none⟩ }))) (fun t => t.nv) =
      some ⟨none, none⟩ := by decide

/-- The word 0xFE60 driven at UPC n, the first window word but one. -/
def driving (n : BitVec 3) : State :=
  { served with bus := { served.bus with brUpc := n, cap := 0x20010002, dout := 0xFE60, dir := .output, ctrl := .nrw } }

/-- An armed state between services (State.reset's invariant is a statement of its own), and one at each of the two UPCs at which data is
valid. -/
theorem witness_PinsFollowTheServicePhase :
    MachineInv served ∧ MachineInv (driving 6) ∧ MachineInv (driving 7) ∧ 6 ≤ (driving 6).bus.brUpc.toNat ∧
    6 ≤ (driving 7).bus.brUpc.toNat := by
  have bus : ∀ n : BitVec 3, (n = 6 ∨ n = 7) → BusInv (driving n) := by
    rintro n (rfl | rfl)
    · exact ⟨rfl, rfl, busInv_served.monitor0, busInv_served.monitor1, ⟨rfl, rfl, ⟨rfl, rfl⟩, by decide⟩, by decide, by decide,
        busInv_served.addrHi, fun _ => by decide, fun h => by cases h⟩
    · exact ⟨rfl, rfl, busInv_served.monitor0, busInv_served.monitor1, ⟨rfl, rfl, ⟨rfl, rfl⟩, by decide, rfl⟩, by decide, by decide,
        busInv_served.addrHi, fun _ => by decide, fun h => by cases h⟩
  have inv : ∀ n : BitVec 3, (n = 6 ∨ n = 7) → MachineInv (driving n) := fun n h =>
    { bus := bus n h
      mc := ⟨rfl, rfl, rfl, mcInv_served.noFatal, mcInv_served.rlBusy, mcInv_served.fsBusy, mcInv_served.before,
        mcInv_served.loading, mcInv_served.after, mcInv_served.setupMode, mcInv_served.emuMode, mcInv_served.pendMode,
        mcInv_served.nvSetup⟩
      debounce := ⟨.inl rfl, Nat.zero_le _⟩
      load := fun _ => ⟨loadInv_served.bounds, loadInv_served.copied, loadInv_served.whole, loadInv_served.source⟩
      stager := fun _ => ⟨(fun h => by cases h), (fun h => by cases h)⟩ }
  exact ⟨witness_served_inv, inv 6 (.inl rfl), inv 7 (.inr rfl), by decide, by decide⟩

theorem witness_HostActionsAndSampledWord :
    (served.out.cs1 = .high ∧ served.out.cs2 = .high ∧ (capturing 0).out.cs2 = .low ∧ csOf .slot2 (capturing 0) = .low) ∧
    (({ served with bus := { served.bus with dir := .output, ctrl := .nrw } } : State).bus.dir = .output ∧
      ({ served with bus := { served.bus with dir := .output, ctrl := .nrw } } : State).bus.ctrl = .nrw) ∧
    ¬(served.bus.dir = .output ∧ served.bus.ctrl = .nrw) := by decide

theorem witness_StatusRegisterViews : 6 ≤ (6 : BitVec 4).toNat ∧ 6 ≤ (15 : BitVec 4).toNat ∧ (4 : BitVec 4) ≠ 3 := by decide

/-- Names of 1 byte, of FNAME_MAX bytes and of one byte more. -/
theorem witness_FilenamePort :
    (1 ≤ ([0x41] : List Byte).length ∧ (List.replicate 64 (0x41 : Byte)).length ≤ tc.fnameMax) ∧
    tc.fnameMax < (List.replicate 65 (0x41 : Byte)).length := by decide

/-- No differing tick, and the longest differing run that is filtered. -/
theorem witness_ShortBounceIsFiltered :
    served.params.wf = true ∧ served.db.cnt = 0 ∧ 0 < served.params.debounceTicks ∧ 1 < served.params.debounceTicks := by decide

theorem witness_PressClassifiedByHeldTicks :
    boot0.params.wf = true ∧ boot0.db.stable = false ∧ boot0.db.cnt = 0 ∧ 2 = 0 + boot0.params.debounceTicks := by decide

/-! ### Invariants and runs -/

/-- `served` meets the invariant with any queue of turns. -/
theorem machineInv_queued (as : List Action) : MachineInv (queue as served) where
  bus := ⟨rfl, rfl, busInv_served.monitor0, busInv_served.monitor1, busInv_served.phase, busInv_served.holdBound,
    busInv_served.capEven, busInv_served.addrHi, busInv_served.capInWin, busInv_served.disarmed⟩
  mc := ⟨rfl, rfl, rfl, mcInv_served.noFatal, mcInv_served.rlBusy, mcInv_served.fsBusy, mcInv_served.before,
    mcInv_served.loading, mcInv_served.after, mcInv_served.setupMode, mcInv_served.emuMode, mcInv_served.pendMode,
    mcInv_served.nvSetup⟩
  debounce := ⟨.inl rfl, Nat.zero_le _⟩
  load := fun _ => ⟨loadInv_served.bounds, loadInv_served.copied, loadInv_served.whole, loadInv_served.source⟩
  stager := fun _ => ⟨(fun h => by cases h), (fun h => by cases h)⟩

/-- A device reset in the middle of a service, with the fixed programs in the stores, and the state it leaves. -/
theorem witness_InvariantHoldsAtReset :
    ((brAt 6 0).bmProg = bmProgram ∧ (brAt 6 0).brProg = brProgram (brAt 6 0).params.settleCycles) ∧
    afterReset (deviceReset (brAt 6 0)) := ⟨by decide, rfl⟩

theorem witness_InvariantKeptByEveryStep :
    MachineInv (queue [.mc] served) ∧ (nextOf (step (queue [.mc] served))).isSome = true :=
  ⟨machineInv_queued _, by decide⟩

theorem witness_MemoriesStayCanonical :
    memoriesWf (queue [.fs] (flashing 9 0 0x100000)) = true ∧
    (nextOf (step (queue [.fs] (flashing 9 0 0x100000)))).isSome = true := by decide

/-- An action with a domain, at both ends of it. -/
theorem witness_EveryStepCompletesUnderTheInvariant :
    (MachineInv (queue [.writeFname [0x41]] served) ∧ premises (queue [.writeFname [0x41]] served) = true ∧
      actionInDomain tc (nextTurn (queue [.writeFname [0x41]] served)).action = true) ∧
    (MachineInv (queue [.writeFname (List.replicate 64 0x41)] served) ∧
      actionInDomain tc (nextTurn (queue [.writeFname (List.replicate 64 0x41)] served)).action = true) :=
  ⟨⟨machineInv_queued _, by decide, by decide⟩, machineInv_queued _, by decide⟩

/-- Both slots, at the lowest and the highest bus address. (The statement of the schedule of R206.) -/
theorem witness_ScheduledReadReturnsTheWord :
    (MachineInv (queue (scheduledRead .slot1 0x0000 1) served) ∧
      MachineInv (queue (scheduledRead .slot2 0xFFFF 1) served)) ∧
    (premises (queue (scheduledRead .slot1 0x0000 1) served) = true ∧
      readyForAccess .slot1 (queue (scheduledRead .slot1 0x0000 1) served) = true ∧
      readyForAccess .slot2 (queue (scheduledRead .slot2 0xFFFF 1) served) = true) ∧
    (queue (scheduledRead .slot1 0x0000 1) served).turns.map (fun u => u.action) =
      scheduledRead .slot1 0x0000 served.params.settleCycles.toNat ++ ([] : List Turn).map (fun u => u.action) ∧
    (queue (scheduledRead .slot2 0xFFFF 1) served).turns.map (fun u => u.action) =
      scheduledRead .slot2 0xFFFF served.params.settleCycles.toNat ++ ([] : List Turn).map (fun u => u.action) :=
  ⟨⟨machineInv_queued _, machineInv_queued _⟩, by decide, by decide, by decide⟩

theorem witness_BootWithNoModeReachesTheLoop :
    tc.wf = true ∧ storageWf [] = true ∧
    (queue ([.mc, .mc] ++ List.replicate 5 .rl ++ [.mc]) boot0).turns.map (fun u => u.action) =
      [.mc, .mc] ++ List.replicate (tc.commImage.length + 1) .rl ++ [.mc] ∧
    ∀ u ∈ (queue ([.mc, .mc] ++ List.replicate 5 .rl ++ [.mc]) boot0).turns, u.draw.present = true := by decide

/-- An access on slot 1 that is not the schedule of R206: the debouncer ticks between the monitor's steps, the host deasserts before the
drive, and it samples in the data-hold. -/
def accessTurns : List Action :=
  [.hostAssert .slot1 0x0003, .seq .bm0, .db, .seq .bm0, .seq .br, .seq .br, .seq .br, .seq .br, .seq .br, .hostDeassert .slot1,
    .seq .br, .lu, .seq .br, .seq .br, .hostSample]

/-- The state before turn n of that access, and after it the last one. -/
def access (n : Nat) : State := stateAfter (min n 15) (queue accessTurns served)

theorem access_steps :
    ∀ n : Fin 15, (nextOf (step (access n))).isSome = true ∧ (nextTurn (access n)).action ≠ .deviceReset := by decide

theorem access_phases :
    (List.range 16).map (fun n => (access n).bus.brUpc.toNat) = [0, 0, 0, 0, 0, 1, 2, 2, 3, 4, 4, 5, 5, 6, 6, 6] ∧
    (List.range 16).map (fun n => csOf .slot2 (access n)) = List.replicate 16 .high := by decide

theorem access_wellTimed : WellTimed access .slot1 0x0003 0 8 12 14 where
  asserts := by decide
  waiting := by decide
  alone := by
    intro n _ _
    have h : ∀ n : Fin 16, csOf .slot2 (stateAfter n (queue accessTurns served)) = .high := by decide
    exact h ⟨min n 15, by omega⟩
  idle := by decide
  captured := by
    refine ⟨by decide, by unfold brLeaves; decide, ?_⟩
    intro n _ h
    interval_cases n <;> decide
  driven := by
    refine ⟨by decide, by unfold brLeaves; decide, ?_⟩
    intro n _ h
    unfold brLeaves
    interval_cases n <;> decide
  sampled := by
    refine ⟨by decide, by decide, ?_⟩
    intro n _ h
    unfold brLeaves
    interval_cases n
    decide

theorem witness_WellTimedReadReturnsTheWord :
    MachineInv (access 0) ∧ premises (access 0) = true ∧ (access 0).bus.armed = true ∧
    (∀ n, 0 ≤ n → n ≤ 14 → step (access n) = .next (access (n + 1)) ∧ (nextTurn (access n)).action ≠ .deviceReset) ∧
    WellTimed access .slot1 0x0003 0 8 12 14 := by
  refine ⟨machineInv_queued _, by decide, by decide, ?_, access_wellTimed⟩
  intro n _ hn
  have h := access_steps ⟨n, by omega⟩
  have here : access n = stateAfter n (queue accessTurns served) := by rw [access, Nat.min_eq_left (by omega)]
  have after : access (n + 1) = stateAfter (n + 1) (queue accessTurns served) := by rw [access, Nat.min_eq_left (by omega)]
  refine ⟨?_, h.2⟩
  rw [here, after]
  exact stateAfter_step (here ▸ h.1)

end Sys2Proof.Tests
end

section
/-! What every action of every agent writes and leaves alone, and the statements about the machine's state (spec/10_state.md): the writers
of its elements, the canonical memories, the registers MENU reads, and the reset. -/

namespace Sys2Proof.Machine

open Sys2Proof

/-! ## Decoding -/

/-- A sequencer decodes only words that are legal for it (30_encoding.md R137). -/
theorem decodeFor_legal {x : Sequencer} {w : Word16} {i : Instr} (h : decodeFor x w = .instr i) :
    i.legalFor x = true := by
  unfold decodeFor at h
  split at h
  · cases h
  · split at h
    · cases h; assumption
    · cases h

/-- CMD decodes only to commands (30_encoding.md R143). -/
theorem decodeCommand_isCommand {w : Word16} {i : Instr} (h : decodeCommand w = .instr i) : i.isCommand = true := by
  unfold decodeCommand at h
  split at h
  · cases h
  · split at h <;> cases h <;> rfl

/-! ## Sequencers -/

/-- DIR, CTRL, CAP and DOUT, which the Bus Responder alone writes (10_state.md R68). -/
def pinsOf (s : State) : Direction × CtrlLevel × Word32 × Word16 := (s.bus.dir, s.bus.ctrl, s.bus.cap, s.bus.dout)

/-- What a micro-step leaves alone: anything that the sequencer's own UPC and HOLD and the word's effects do not touch. -/
theorem microStep_keeps {α : Type} (view : State → α) {x : Sequencer} {f : MicroFields} {ready : State → Bool}
    {act : State → State → State} {s : State} (hupc : ∀ n u, view (setUpc x n u) = view u)
    (hhold : ∀ h u, view (setHold x h u) = view u)
    (hact : view (act s (ctrlEffect f.cw f.ctrl (dirEffect f.dir (waitEffect f.wait s)))) = view s) :
    view (microStep x f ready act s) = view s := by
  rcases microStep_cases x f ready act s with ⟨_, h⟩ | ⟨_, _, h⟩ | ⟨_, _, _, h⟩ | ⟨_, _, _, _, h⟩ <;> rw [h]
  · unfold holdCycle
    split <;> simp only [hupc, hhold]
  · unfold advance
    split <;> simp only [hupc, hhold, hact]

/-- The state without the bus engine's registers, as a view that a micro-step keeps. -/
def withBus (b : Bus) (s : State) : State := { s with bus := b }

theorem withBus_setUpc (b : Bus) (x : Sequencer) (n : Nat) (s : State) : withBus b (setUpc x n s) = withBus b s := by
  cases x <;> rfl

theorem withBus_setHold (b : Bus) (x : Sequencer) (h : BitVec 6) (s : State) : withBus b (setHold x h s) = withBus b s := by
  cases x <;> rfl

theorem withBus_effects (b : Bus) (f : MicroFields) (s : State) :
    withBus b (ctrlEffect f.cw f.ctrl (dirEffect f.dir (waitEffect f.wait s))) = withBus b s := by
  obtain ⟨w, d, cw, c, h⟩ := f
  cases w <;> cases d <;> cases cw <;> rfl

/-- A micro-step whose action writes the bus engine alone writes nothing else. -/
theorem microStep_frame {x : Sequencer} {f : MicroFields} {ready : State → Bool} {act : State → State → State} {s : State}
    (hact : ∀ b u, withBus b (act s u) = withBus b u) :
    microStep x f ready act s = { s with bus := (microStep x f ready act s).bus } :=
  microStep_keeps (withBus (microStep x f ready act s).bus) (withBus_setUpc _ x) (withBus_setHold _ x)
    ((hact _ _).trans (withBus_effects _ f s))

/-- A Bus Monitor's word is a `step` or a `raise` that leaves DIR and CTRL alone (30_encoding.md R137). -/
theorem bmWord_fields {i : Instr} (h : i.bmWord = true) :
    ∃ f, (i = .step f ∨ i = .raise f) ∧ f.dir = .keep ∧ f.cw = false := by
  have fields : ∀ f : MicroFields, f.bmOk = true → f.dir = .keep ∧ f.cw = false := fun f hf => by
    simp only [MicroFields.bmOk, Bool.and_eq_true, beq_iff_eq, Bool.not_eq_true'] at hf
    exact ⟨hf.1.1.2, hf.1.2⟩
  cases i with
  | step f => exact ⟨f, .inl rfl, fields f h⟩
  | raise f => exact ⟨f, .inr rfl, fields f h⟩
  | capture f | drive f | nop | launch m | handoff => cases h

/-- A legal micro-word writes the bus engine alone. -/
theorem exec_frame_of_legal {i : Instr} {s t : State} (hl : i.legalFor s.active = true) (h : exec i s = .next t) :
    t = { s with bus := t.bus } := by
  cases i with
  | step f | raise f | capture f | drive f =>
    obtain ⟨-, rfl⟩ := runMicro_next _ _ _ _ _ _ h
    exact microStep_frame fun _ _ => rfl
  | nop | launch m | handoff => cases hx : s.active <;> rw [hx] at hl <;> cases hl

/-- A Bus Monitor's word leaves DIR, CTRL, CAP and DOUT alone. -/
theorem exec_pins_of_bmWord {i : Instr} {s t : State} (hl : i.bmWord = true) (h : exec i s = .next t) :
    pinsOf t = pinsOf s := by
  obtain ⟨⟨w, d, cw, c, n⟩, hi, rfl, rfl⟩ := bmWord_fields hl
  have hupc : ∀ n u, pinsOf (setUpc s.active n u) = pinsOf u := fun n u => by simp [pinsOf]
  have hhold : ∀ n u, pinsOf (setHold s.active n u) = pinsOf u := fun n u => by simp [pinsOf]
  rcases hi with rfl | rfl <;> obtain ⟨-, rfl⟩ := runMicro_next _ _ _ _ _ _ h <;>
    exact microStep_keeps pinsOf hupc hhold (by simp [pinsOf])

/-- A sequencer's turn writes the bus engine alone (40_bus_monitor.md R160), and a Bus Monitor's leaves the pins and CAP alone. -/
theorem seqTurn_frame {x : Sequencer} {s t : State} (h : seqTurn x s = .next t) :
    t = { s with bus := t.bus, active := x } ∧ (x ≠ .br → pinsOf t = pinsOf s) := by
  obtain ⟨w, i, -, hi, he⟩ := seqTurn_next x s t h
  have hl := decodeFor_legal hi
  refine ⟨exec_frame_of_legal hl he, fun hx => ?_⟩
  have hbm : i.bmWord = true := by
    cases x with
    | bm0 | bm1 => exact hl
    | br => exact absurd rfl hx
  have hp := exec_pins_of_bmWord hbm he
  exact hp

/-! ## The RAM Loader -/

/-- RL writes the bus engine, its own registers and RAM, and what Fatal writes (42_staging.md R223, R228; 60_exceptions.md R333); DIR,
CTRL, CAP, DOUT and MODE stay. -/
theorem rlStep_frame {s t : State} (h : rlStep s = .next t) :
    t = { s with bus := t.bus, rl := t.rl, fs := t.fs, mc := t.mc, db := t.db, ram := t.ram } ∧
      pinsOf t = pinsOf s ∧ t.mc.mode = s.mc.mode := by
  rcases rlStep_next s t h with rfl | ⟨-, -, hc⟩ | ⟨-, -, rfl⟩
  · exact ⟨rfl, rfl, rfl⟩
  · rcases rlCopyStep_next s t hc with ⟨-, rfl⟩ | ⟨-, b, -, rfl⟩ <;> exact ⟨rfl, rfl, rfl⟩
  · rcases armStep_cases s with ⟨-, ha⟩ | ⟨-, ha⟩ <;> rw [ha] <;> exact ⟨rfl, rfl, rfl⟩

/-! ## The Mode Controller -/

/-- The MC's registers, the invocations of RL and FS, the debouncer's EVT and LP_EN and the settings store are all that differs. -/
def onlyControlChanged (s t : State) : Prop := t = { s with rl := t.rl, fs := t.fs, mc := t.mc, db := t.db, nv := t.nv }

/-- The action of a Mode Controller state writes no more than that (43_mode_controller.md R266 to R296), and MODE only in BOOT (R267). -/
theorem mcAction_frame (q : McState) (s : State) :
    onlyControlChanged s (mcAction q s) ∧ (q ≠ .boot → (mcAction q s).mc.mode = s.mc.mode) := by
  cases q with
  | boot =>
    refine ⟨?_, fun h => absurd rfl h⟩
    simp only [mcAction, mcBoot]
    cases decodeMode s.nv.mode <;> rfl
  | setupStage | emuStage =>
    simp only [mcAction, mcSetupStage, mcEmuStage]
    rcases rlInvoke_cases _ s with ⟨-, h⟩ | ⟨-, h⟩ <;> rw [h] <;> exact ⟨rfl, fun _ => rfl⟩
  | setupInit =>
    simp only [mcAction, mcSetupInit]
    split
    · split <;> exact ⟨rfl, fun _ => rfl⟩
    · exact ⟨rfl, fun _ => rfl⟩
  | storageWait =>
    simp only [mcAction, mcStorageWait]
    split
    · exact ⟨rfl, fun _ => rfl⟩
    · split <;> exact ⟨rfl, fun _ => rfl⟩
  | launchRecord =>
    simp only [mcAction, mcLaunchRecord]
    rcases fsInvoke_cases (BitVec.ofNat 32 s.params.stageOff) s with ⟨-, h⟩ | ⟨-, -, h⟩ | ⟨-, -, h⟩ <;> rw [h] <;>
      split <;> exact ⟨rfl, fun _ => rfl⟩
  | launchCheck | launchFlash | delayWait | emuWaitExit =>
    simp only [mcAction, mcLaunchCheck, mcLaunchFlash, mcDelayWait, mcEmuWaitExit]
    split <;> exact ⟨rfl, fun _ => rfl⟩
  | setupLoop | launchPersist | handoffPersist | handedOff | exitPersist | factoryReset | resetReq | fatal =>
    exact ⟨rfl, fun _ => rfl⟩

/-- An MC step writes no more than the MC's action does. -/
theorem mcStep_frame (s : State) :
    onlyControlChanged s (mcStep s) ∧ (s.mc.state ≠ .boot → (mcStep s).mc.mode = s.mc.mode) := by
  by_cases hi : s.rl.busy = false ∧ s.fs.busy = false
  · rw [mcStep_idle s _ hi.1 hi.2 rfl]
    exact mcAction_frame _ s
  · have h : mcStep s = s := by
      unfold mcStep
      rw [if_pos (by simpa [or_iff_not_imp_left] using hi)]
    rw [h]
    exact ⟨rfl, fun _ => rfl⟩

/-! ## Commands -/

/-- A write to CMD writes the MC's registers and the debouncer's EVT and LP_EN alone, and not MODE (43_mode_controller.md R274 to R277). -/
theorem writeCmd_frame {w : Word16} {s t : State} (h : writeCmd w s = .next t) :
    t = { s with mc := t.mc, db := t.db } ∧ t.mc.mode = s.mc.mode := by
  rcases writeCmd_next w s t h with ⟨i, hi, he⟩ | ⟨-, -, rfl⟩
  · have hc := decodeCommand_isCommand hi
    cases i with
    | step f | raise f | capture f | drive f => cases hc
    | nop => cases he; exact ⟨rfl, rfl⟩
    | launch m | handoff =>
      cases he
      rcases acceptCommand_cases _ s with ⟨-, h⟩ | ⟨-, h⟩ | ⟨-, -, h⟩ <;> rw [h] <;> exact ⟨rfl, rfl⟩
  · unfold rejectCommand
    split <;> exact ⟨rfl, rfl⟩

/-! ## The device reset -/

/-- What a device reset does not touch (70_reset_and_hazards.md R372). -/
@[simp] theorem deviceReset_rest (s : State) :
    (deviceReset s).params = s.params ∧ (deviceReset s).bmProg = s.bmProg ∧ (deviceReset s).brProg = s.brProg ∧
    (deviceReset s).flash = s.flash ∧ (deviceReset s).flashBlank = s.flashBlank ∧ (deviceReset s).nv = s.nv ∧
    (deviceReset s).storage = s.storage ∧ (deviceReset s).out = s.out ∧ (deviceReset s).turns = s.turns ∧
    (deviceReset s).steps = s.steps ∧ (deviceReset s).draw = s.draw ∧ (deviceReset s).active = s.active :=
  ⟨rfl, rfl, rfl, rfl, rfl, rfl, rfl, rfl, rfl, rfl, rfl, rfl⟩

/-- The registers and RAM after a device reset are those of a launch with a drawn DOUT (70_reset_and_hazards.md R371). -/
@[simp] theorem deviceReset_volatile (s : State) :
    (deviceReset s).bus = (State.launch s.params s.draw.dout s.nv s.storage).bus ∧
    (deviceReset s).rl = (State.launch s.params s.draw.dout s.nv s.storage).rl ∧
    (deviceReset s).fs = (State.launch s.params s.draw.dout s.nv s.storage).fs ∧
    (deviceReset s).mc = (State.launch s.params s.draw.dout s.nv s.storage).mc ∧
    (deviceReset s).menu = (State.launch s.params s.draw.dout s.nv s.storage).menu ∧
    (deviceReset s).db = (State.launch s.params s.draw.dout s.nv s.storage).db ∧
    (deviceReset s).ram = (State.launch s.params s.draw.dout s.nv s.storage).ram :=
  ⟨rfl, rfl, rfl, rfl, rfl, rfl, rfl⟩

/-- The reset table (10_state.md R71), with RAM unknown. -/
@[simp] theorem launch_volatile (p : Params) (d : Word16) (nv : Nv) (files : List StoredFile) :
    (State.launch p d nv files).bus = ⟨false, 0, false, ⟨0, 0⟩, ⟨0, 0⟩, 0, 0, 0, d, .input, .nrnw, [], []⟩ ∧
    (State.launch p d nv files).rl = ⟨false, .comm, 0, 0⟩ ∧
    (State.launch p d nv files).fs = ⟨false, none, 0, 0, 0, .ok⟩ ∧
    (State.launch p d nv files).mc = ⟨.boot, .setup, .none, false, false, false, false, false, [], 0⟩ ∧
    (State.launch p d nv files).menu = ⟨[], 0, []⟩ ∧ (State.launch p d nv files).db = ⟨false, 0, 0, .none, false⟩ ∧
    (State.launch p d nv files).ram = [] :=
  ⟨rfl, rfl, rfl, rfl, rfl, rfl, rfl⟩

/-! ## One action -/

/-- What each action can write: all the rest of the state is as before. The last case is the debouncer, the lookup unit, a write to CMD
and the actions of the outside. -/
inductive ActionFrame : Action → State → State → Prop
  | seq {x : Sequencer} {s t : State} (rest : t = { s with bus := t.bus, active := x })
      (pins : x ≠ .br → pinsOf t = pinsOf s) : ActionFrame (.seq x) s t
  | rl {s t : State} (rest : t = { s with bus := t.bus, rl := t.rl, fs := t.fs, mc := t.mc, db := t.db, ram := t.ram })
      (pins : pinsOf t = pinsOf s) (mode : t.mc.mode = s.mc.mode) : ActionFrame .rl s t
  | fs {s t : State} (rest : t = { s with fs := t.fs, flash := t.flash, flashBlank := t.flashBlank }) : ActionFrame .fs s t
  | mc {s t : State} (rest : t = { s with rl := t.rl, fs := t.fs, mc := t.mc, db := t.db, nv := t.nv })
      (mode : s.mc.state ≠ .boot → t.mc.mode = s.mc.mode) : ActionFrame .mc s t
  | deviceReset {s : State} : ActionFrame .deviceReset s (deviceReset s)
  | other {a : Action} {s t : State}
      (rest : t = { s with
        bus := { s.bus with addrFifo := t.bus.addrFifo, replyFifo := t.bus.replyFifo }
        mc := t.mc, menu := t.menu, db := t.db, out := t.out })
      (mode : t.mc.mode = s.mc.mode) : ActionFrame a s t

/-- Every action that answers a next state keeps to its frame. -/
theorem runAction_frame {a : Action} {s t : State} (h : runAction a s = .next t) : ActionFrame a s t := by
  rcases runAction_cases a s t h with ⟨x, rfl, h⟩ | ⟨rfl, rfl⟩ | ⟨rfl, h⟩ | ⟨rfl, h⟩ | ⟨rfl, rfl⟩ | ⟨rfl, rfl⟩ | ⟨w, rfl, h⟩ |
    ⟨rfl, rfl⟩ | ⟨h, -⟩
  · exact .seq (seqTurn_frame h).1 (seqTurn_frame h).2
  · rcases luStep_cases s with h | ⟨b, r, -, -, -, h⟩ <;> rw [h] <;> exact .other rfl rfl
  · obtain ⟨hr, hp, hm⟩ := rlStep_frame h
    exact .rl hr hp hm
  · exact .fs (fsStep_frame s t h)
  · exact .mc (mcStep_frame s).1 (mcStep_frame s).2
  · have hs := (dbTick_frame s).1
    exact .other (by rw [hs]) (congrArg (fun u => u.mc.mode) hs)
  · obtain ⟨hs, hm⟩ := writeCmd_frame h
    exact .other (by rw [hs]) hm
  · exact .deviceReset
  · exact .other (by rw [h]) (congrArg (fun u => u.mc.mode) h)

/-! ## The writers of each element (10_state.md R68) -/

/-- MODE is written in BOOT and by a device reset alone (10_state.md R49, 43_mode_controller.md R267). -/
theorem ActionFrame.mode_writers {a : Action} {s t : State} (h : ActionFrame a s t) :
    t.mc.mode = s.mc.mode ∨ (a = .mc ∧ s.mc.state = .boot) ∨ a = .deviceReset := by
  cases h with
  | seq rest | fs rest => exact .inl (by rw [rest])
  | rl rest pins mode => exact .inl mode
  | other rest mode => exact .inl mode
  | mc rest mode =>
    by_cases hb : s.mc.state = .boot
    · exact .inr (.inl ⟨rfl, hb⟩)
    · exact .inl (mode hb)
  | deviceReset => exact .inr (.inr rfl)

/-- DIR, CTRL, CAP and DOUT are written by the Bus Responder and by a device reset alone. -/
theorem ActionFrame.pins_writers {a : Action} {s t : State} (h : ActionFrame a s t) :
    pinsOf t = pinsOf s ∨ a = .seq .br ∨ a = .deviceReset := by
  cases h with
  | @seq x _ _ rest pins =>
    by_cases hx : x = .br
    · exact .inr (.inl (congrArg Action.seq hx))
    · exact .inl (pins hx)
  | rl rest pins mode => exact .inl pins
  | fs rest | mc rest | other rest => exact .inl (by rw [rest]; rfl)
  | deviceReset => exact .inr (.inr rfl)

/-- SIG is written by a sequencer, by the ARM step and by a device reset alone. -/
theorem ActionFrame.sig_writers {a : Action} {s t : State} (h : ActionFrame a s t) :
    t.bus.sig = s.bus.sig ∨ (∃ x, a = .seq x) ∨ a = .rl ∨ a = .deviceReset := by
  cases h with
  | @seq x => exact .inr (.inl ⟨x, rfl⟩)
  | rl => exact .inr (.inr (.inl rfl))
  | fs rest | mc rest | other rest => exact .inl (by rw [rest])
  | deviceReset => exact .inr (.inr (.inr rfl))

/-- FLASH is written by the Flash Stager alone. -/
theorem ActionFrame.flash_writers {a : Action} {s t : State} (h : ActionFrame a s t) : t.flash = s.flash ∨ a = .fs := by
  cases h with
  | seq rest | rl rest | mc rest | other rest => exact .inl (by rw [rest])
  | fs => exact .inr rfl
  | deviceReset => exact .inl rfl

/-- RAM is written by the RAM Loader and by a device reset alone. -/
theorem ActionFrame.ram_writers {a : Action} {s t : State} (h : ActionFrame a s t) :
    (t.ram = s.ram ∧ t.resets = s.resets) ∨ a = .rl ∨ a = .deviceReset := by
  cases h with
  | seq rest | fs rest | mc rest | other rest => exact .inl ⟨by rw [rest], by rw [rest]⟩
  | rl => exact .inr (.inl rfl)
  | deviceReset => exact .inr (.inr rfl)

/-- NV is written by the Mode Controller alone. -/
theorem ActionFrame.nv_writers {a : Action} {s t : State} (h : ActionFrame a s t) : t.nv = s.nv ∨ a = .mc := by
  cases h with
  | seq rest | rl rest | fs rest | other rest => exact .inl (by rw [rest])
  | mc => exact .inr rfl
  | deviceReset => exact .inl rfl

/-- Nothing writes the micro-program stores and the parameters (10_state.md R44). -/
theorem ActionFrame.stores_kept {a : Action} {s t : State} (h : ActionFrame a s t) :
    t.bmProg = s.bmProg ∧ t.brProg = s.brProg ∧ t.params = s.params := by
  cases h with
  | seq rest | rl rest | fs rest | mc rest | other rest =>
    exact ⟨by rw [rest], by rw [rest], by rw [rest]⟩
  | deviceReset => exact ⟨rfl, rfl, rfl⟩

/-! ## One step -/

/-- A step keeps to the frame of its turn's action. -/
theorem step_frame {s t : State} (h : step s = .next t) : ActionFrame (nextTurn s).action (takeTurn s) t :=
  runAction_frame h

/-- Settles O41: the Mode Controller in BOOT and the device reset are the writers of MODE. -/
theorem modeWrittenOnlyByBoot : Obligations.ModeWrittenOnlyByBoot := by
  intro s t h hmode
  exact (step_frame h).mode_writers.resolve_left hmode

/-- Settles O45: the writers of each element, one after the other. -/
theorem onlyTheNamedWriters : Obligations.OnlyTheNamedWriters := by
  intro s t h
  have hf := step_frame h
  refine ⟨fun hd => ?_, hf.sig_writers.resolve_left, fun ⟨o, ho⟩ => ?_, fun ⟨a, ha⟩ => ?_, hf.nv_writers.resolve_left,
    hf.stores_kept⟩
  · refine hf.pins_writers.resolve_left fun hp => ?_
    simp only [pinsOf, Prod.mk.injEq, takeTurn_rest] at hp
    obtain ⟨hdir, hctrl, hcap, hdout⟩ := hp
    simp only [hdir, hctrl, hcap, hdout, ne_eq, not_true_eq_false, or_self] at hd
  · exact hf.flash_writers.resolve_left fun he => ho (flashByte_congr s t o he)
  · exact hf.ram_writers.resolve_left fun ⟨hr, hn⟩ => ha (ramByte_congr s t a hr hn)

/-! ## Canonical memories -/

theorem memoriesWf_iff (s : State) : memoriesWf s = true ↔ Memory.wf s.ram = true ∧ Memory.wf s.flash = true := by
  simp [memoriesWf]

/-- A load keeps RAM in canonical form. -/
theorem rlStep_keeps_ram_wf {s t : State} (h : rlStep s = .next t) (hw : Memory.wf s.ram = true) :
    Memory.wf t.ram = true := by
  rcases rlStep_next s t h with rfl | ⟨-, -, hc⟩ | ⟨-, -, rfl⟩
  · exact hw
  · rcases rlCopyStep_next s t hc with ⟨-, rfl⟩ | ⟨-, b, -, rfl⟩
    · exact hw
    · exact Memory.wf_ramWrite _ b s hw
  · rcases armStep_cases s with ⟨-, ha⟩ | ⟨-, ha⟩ <;> rw [ha] <;> exact hw

/-- A flash request keeps FLASH in canonical form: it is erased, programmed, or, after a failed verify, any value. -/
theorem fsStep_keeps_flash_wf {s t : State} (h : fsStep s = .next t) (hw : Memory.wf s.flash = true) :
    Memory.wf t.flash = true := by
  rcases fsStep_next s t h with ⟨-, rfl⟩ | ⟨-, -, rfl⟩ | ⟨-, hd, -, h⟩
  · exact hw
  · rw [fsStartStep_rest]
    exact hw
  · rcases fsChunkStep_next hd s t h with ⟨-, rfl⟩ | ⟨-, -, rfl⟩ | ⟨-, bytes, -, h⟩
    · exact hw
    · exact hw
    · obtain ⟨u, v, hu, hv, h⟩ := fsProgramChunk_next _ _ _ _ h
      have hprog := Memory.wf_flashProgram _ _ _ _ (Memory.wf_flashErase _ _ _ hw hu) hv
      rcases h with ⟨-, rfl⟩ | ⟨-, rfl⟩
      · exact hprog
      · exact Memory.wf_flashSpoil _ v hprog

/-- Every action keeps both memories in canonical form: RL is the one that writes RAM, FS the one that writes FLASH. -/
theorem runAction_keeps_memoriesWf {a : Action} {s t : State} (h : runAction a s = .next t) (hw : memoriesWf s = true) :
    memoriesWf t = true := by
  rw [memoriesWf_iff] at hw ⊢
  obtain ⟨hram, hflash⟩ := hw
  have hf := runAction_frame h
  constructor
  · rcases hf.ram_writers with ⟨hr, -⟩ | rfl | rfl
    · rwa [hr]
    · exact rlStep_keeps_ram_wf h hram
    · cases h
      simp only [deviceReset_volatile, launch_volatile, Memory.wf]
  · rcases hf.flash_writers with hr | rfl
    · rwa [hr]
    · exact fsStep_keeps_flash_wf h hflash

/-- Settles O56: both memories are empty at reset, and a step runs one action. -/
theorem memoriesStayCanonical : Obligations.MemoriesStayCanonical := by
  refine ⟨(memoriesWf_iff _).2 reset_memories_wf, fun s t hw h => ?_⟩
  rw [step_eq] at h
  exact runAction_keeps_memoriesWf h hw

/-! ## The registers MENU reads and writes -/

/-- Of a byte set above eight bits the upper half is the byte, and each bit stands where it was put. -/
theorem status_layout (c : Byte) (b7 b6 b5 b4 b3 b2 b1 b0 : Bool) (w : Word16)
    (hw : w = c ++ BitVec.ofBool b7 ++ BitVec.ofBool b6 ++ BitVec.ofBool b5 ++ BitVec.ofBool b4 ++ BitVec.ofBool b3 ++
      BitVec.ofBool b2 ++ BitVec.ofBool b1 ++ BitVec.ofBool b0) :
    w.getLsbD 0 = b0 ∧ w.getLsbD 1 = b1 ∧ w.getLsbD 2 = b2 ∧ w.getLsbD 3 = b3 ∧ w.getLsbD 4 = b4 ∧ w.getLsbD 5 = b5 ∧
      w.getLsbD 6 = b6 ∧ w.getLsbD 7 = b7 ∧ w.extractLsb' 8 8 = c := by
  subst hw
  simp only [BitVec.getLsbD_append]
  refine ⟨by simp, by simp, by simp, by simp, by simp, by simp, by simp, by simp, ?_⟩
  apply BitVec.eq_of_getLsbD_eq
  intro i hi
  simp only [BitVec.getLsbD_extractLsb', BitVec.getLsbD_append]
  interval_cases i <;> simp

/-- The bits of STATUS (10_state.md R60). -/
theorem statusWord_bits (s : State) :
    (statusWord s).getLsbD 0 = s.bus.armed ∧ (statusWord s).getLsbD 1 = s.bus.sig ∧
    (statusWord s).getLsbD 2 = s.mc.netOk ∧ (statusWord s).getLsbD 3 = s.mc.storageOk ∧
    (statusWord s).getLsbD 4 = s.mc.resetRequested ∧ (statusWord s).getLsbD 5 = s.mc.fatalF ∧
    (statusWord s).getLsbD 6 = s.mc.handoff ∧ (statusWord s).getLsbD 7 = (s.fs.busy || s.rl.busy) ∧
    (statusWord s).extractLsb' 8 8 = s.mc.state.code :=
  status_layout _ _ _ _ _ _ _ _ _ _ rfl

/-- MODE is the mode code in the low byte, above it zeros (10_state.md R61). -/
theorem modeWord_bits (s : State) :
    (modeWord s).extractLsb' 0 8 = encodeMode s.mc.mode ∧ (modeWord s).extractLsb' 8 8 = 0 := by
  unfold modeWord
  cases s.mc.mode <;> decide

/-- RESULT.BUSY is 1 in the five states of a running launch or handoff (10_state.md R64). -/
theorem isBusy_iff (q : McState) :
    q.isBusy = true ↔
      (q = .launchCheck ∨ q = .launchRecord ∨ q = .launchFlash ∨ q = .launchPersist ∨ q = .handoffPersist) := by
  cases q <;> decide

/-- RESULT is the last error in the low byte, BUSY above it, and zeros (10_state.md R64). -/
theorem resultWord_bits (s : State) :
    (resultWord s).extractLsb' 0 8 = s.mc.lastError.code ∧ (resultWord s).getLsbD 8 = s.mc.state.isBusy ∧
    (resultWord s).extractLsb' 9 7 = 0 := by
  unfold resultWord
  cases s.mc.state.isBusy <;> cases s.mc.lastError <;> decide

/-- BUTTON is STABLE, EVT and LP_EN from bit 0 up, and zeros (10_state.md R65). -/
theorem buttonWord_bits (s : State) :
    (buttonWord s).getLsbD 0 = s.db.stable ∧ (buttonWord s).extractLsb' 1 2 = s.db.evt.code ∧
    (buttonWord s).getLsbD 3 = s.db.lpEn ∧ (buttonWord s).extractLsb' 4 12 = 0 := by
  unfold buttonWord
  cases s.db.lpEn <;> cases s.db.evt <;> cases s.db.stable <;> decide

/-- The reserved registers read 0x0000 (10_state.md R67). -/
theorem csrValue_reserved (n : BitVec 4) (s : State) (h : 6 ≤ n.toNat) : csrValue n s = 0 := by
  unfold csrValue
  split
  case h_6 => rfl
  all_goals omega

/-- Settles O48, register by register. -/
theorem statusRegisterViews : Obligations.StatusRegisterViews := by
  intro s
  obtain ⟨herr, hbusy, hzero⟩ := resultWord_bits s
  refine ⟨statusWord_bits s, modeWord_bits s, rfl, rfl, ⟨herr, ?_, hzero⟩, buttonWord_bits s,
    fun n h => csrValue_reserved n s h, fun n => rfl, fun n w hn => if_neg hn⟩
  have hb : (csrValue 4 s).getLsbD 8 = s.mc.state.isBusy := hbusy
  rw [hb, isBusy_iff]

/-- Settles O49: the two cases of the port's length check. -/
theorem filenamePort : Obligations.FilenamePort := by
  intro s name
  refine ⟨fun h1 hmax => if_pos ⟨h1, hmax⟩, fun hlong => if_neg fun h => ?_, rfl⟩
  exact absurd h.2 (Nat.not_le.mpr hlong)

/-! ## Reset -/

/-- Settles O52: the volatile elements are those of a launch, and nothing is written to FLASH and NV. -/
theorem deviceResetRestoresTheResetTable : Obligations.DeviceResetRestoresTheResetTable := by
  intro s
  simp only [deviceReset_volatile, launch_volatile, deviceReset_rest, true_and, and_true]
  exact fun o => flashByte_congr s _ o rfl

/-- Settles O53: State.reset is a launch, and the registers MENU reads follow from it. -/
theorem resetStateMatchesTheTable : Obligations.ResetStateMatchesTheTable := by
  unfold Obligations.ResetStateMatchesTheTable State.reset
  simp only [launch_volatile, true_and]
  exact ⟨rfl, rfl, rfl, rfl, rfl⟩

/-- A monitor at its first word is between its steps. -/
theorem monitorOk_start : monitorOk ⟨0, 0⟩ := ⟨by decide, rfl⟩

/-- Right after a reset the bus engine is disarmed, at the start of its fixed programs, with its FIFOs empty (41_bus_responder.md R203). -/
theorem busInv_of_afterReset {s : State} (h : afterReset s) : BusInv s := by
  rw [h]
  exact {
    bmProg := rfl
    brProg := rfl
    monitor0 := monitorOk_start
    monitor1 := monitorOk_start
    phase := ⟨rfl, rfl, ⟨rfl, rfl⟩, rfl⟩
    holdBound := Nat.zero_le _
    capEven := (by decide : (0 : Word32).getLsbD 0 = false)
    addrHi := nofun
    capInWin := nofun
    disarmed := fun _ => ⟨rfl, rfl, rfl, rfl, rfl, rfl⟩ }

/-- Right after a reset the Mode Controller is in BOOT with no output signal set and nothing running (10_state.md R71). -/
theorem mcInv_of_afterReset {s : State} (h : afterReset s) : McInv s := by
  rw [h]
  exact {
    lpEn := rfl
    resetReq := rfl
    handoff := rfl
    noFatal := ⟨rfl, nofun⟩
    rlBusy := nofun
    fsBusy := nofun
    before := fun _ => rfl
    loading := nofun
    after := nofun
    setupMode := nofun
    emuMode := nofun
    pendMode := .inl rfl
    nvSetup := nofun }

/-- Right after a reset the invariant holds: the counters are 0, and neither a load nor a flash request runs. -/
theorem machineInv_of_afterReset {s : State} (h : afterReset s) : MachineInv s where
  bus := busInv_of_afterReset h
  mc := mcInv_of_afterReset h
  debounce := by
    rw [h]
    exact ⟨.inl rfl, Nat.zero_le _⟩
  load := fun _ => by
    rw [h]
    exact ⟨nofun, nofun, nofun, nofun⟩
  stager := fun _ => by
    rw [h]
    exact ⟨nofun, nofun⟩

/-- A device reset leads to a state right after a reset, where the stores hold the fixed programs. -/
theorem afterReset_deviceReset {s : State} (hbm : s.bmProg = bmProgram) (hbr : s.brProg = brProgram s.params.settleCycles) :
    afterReset (deviceReset s) := by
  unfold afterReset deviceReset
  rw [hbm, hbr]
  rfl

/-- Settles O54: State.reset is a state right after a reset, and in each such state the invariant holds. -/
theorem invariantHoldsAtReset : Obligations.InvariantHoldsAtReset :=
  have hreset : afterReset State.reset := rfl
  ⟨machineInv_of_afterReset hreset, hreset, fun _ => afterReset_deviceReset, fun _ => machineInv_of_afterReset⟩

end Sys2Proof.Machine
end

section
/-! The armed bus engine: what its sequencers, the lookup unit and every other agent can do while the pair is armed (spec/40_bus_monitor.md,
spec/41_bus_responder.md), that each keeps the bus engine's invariant, and the statements about host accesses (spec/20_memory.md). -/

namespace Sys2Proof.Machine

open Sys2Proof

/-! ## The host's actions and what it and a capture sample -/

/-- The address HOST presents on slot k (20_memory.md R100). -/
def slotAddr (k : Slot) (s : State) : Word16 :=
  match k with
  | .slot1 => s.out.addr1
  | .slot2 => s.out.addr2

/-- With DIR = IN and CTRL = RNW a capture samples the address of the one selected slot (20_memory.md R102). -/
theorem sampleAd_selected {k : Slot} {s : State} (hdir : s.bus.dir = .input) (hctrl : s.bus.ctrl = .rnw)
    (hlow : csOf k s = .low) (hother : csOf (otherSlot k) s = .high) : sampleAd s = slotAddr k s := by
  rw [sampleAd, if_pos ⟨hdir, hctrl⟩]
  cases k <;> simp only [csOf, otherSlot] at hlow hother <;> simp [presentedAddr, slotAddr, hlow, hother]

/-- With no slot selected a capture samples a draw (20_memory.md R102). -/
theorem sampleAd_unselected {s : State} (h1 : s.out.cs1 = .high) (h2 : s.out.cs2 = .high) : sampleAd s = s.draw.pins := by
  simp [sampleAd, presentedAddr, h1, h2]

/-- With the pins not turned to the host's address a capture samples a draw (20_memory.md R102). -/
theorem sampleAd_not_reading {s : State} (h : s.bus.dir = .output ∨ s.bus.ctrl ≠ .rnw) : sampleAd s = s.draw.pins := by
  refine if_neg fun ⟨hdir, hctrl⟩ => ?_
  rcases h with h | h
  · rw [hdir] at h
    cases h
  · exact h hctrl

/-- Settles O15: the selected slot is slot 1, slot 2 or none, or the pins do not read. -/
theorem captureSamplesThePresentedAddress : Obligations.CaptureSamplesThePresentedAddress := fun _ =>
  ⟨fun hdir hctrl h1 h2 => sampleAd_selected (k := .slot1) hdir hctrl h1 h2,
    fun hdir hctrl h1 h2 => sampleAd_selected (k := .slot2) hdir hctrl h2 h1,
    sampleAd_unselected, sampleAd_not_reading⟩

/-- HostAssert on a slot that is high drives it low and presents the address (20_memory.md R100). -/
theorem hostAssert_high {k : Slot} {a : Word16} {s : State} (h : csOf k s = .high) :
    hostAssert k a s = presentAddr k a (setCs k .low s) := if_pos h

/-- HostAssert is not enabled on a slot that is low (20_memory.md R100, 00_scope.md R16). -/
theorem hostAssert_low {k : Slot} {a : Word16} {s : State} (h : csOf k s = .low) : hostAssert k a s = s :=
  if_neg (by simp [h])

/-- HostDeassert on a slot that is low drives it high (20_memory.md R100). -/
theorem hostDeassert_low {k : Slot} {s : State} (h : csOf k s = .low) : hostDeassert k s = setCs k .high s := if_pos h

/-- HostDeassert is not enabled on a slot that is high (20_memory.md R100, 00_scope.md R16). -/
theorem hostDeassert_high {k : Slot} {s : State} (h : csOf k s = .high) : hostDeassert k s = s := if_neg (by simp [h])

/-- While data is valid the host sees DOUT (20_memory.md R101). -/
theorem hostSees_valid {s : State} (h : s.bus.dir = .output ∧ s.bus.ctrl = .nrw) : hostSees s = ⟨s.bus.dout, true⟩ := if_pos h

/-- While no data is valid the host sees a draw, recorded as no response (20_memory.md R101). -/
theorem hostSees_invalid {s : State} (h : ¬(s.bus.dir = .output ∧ s.bus.ctrl = .nrw)) :
    hostSees s = ⟨s.draw.sample, false⟩ := if_neg h

/-- Settles O47, action by action, enabled and not. -/
theorem hostActionsAndSampledWord : Obligations.HostActionsAndSampledWord := by
  intro s a
  refine ⟨fun h => hostAssert_high (k := .slot1) h, fun h => hostAssert_high (k := .slot2) h,
    fun h => hostDeassert_low (k := .slot1) h, fun h => hostDeassert_low (k := .slot2) h,
    fun _ => hostAssert_low, fun _ => hostDeassert_high, fun h => ?_, fun h => ?_⟩
  · rw [hostSample, hostSees_valid h]
  · rw [hostSample, hostSees_invalid h]

/-! ## The fixed micro-programs, decoded -/

/-- The instruction at UPC u of BR_PROG with S = SETTLE_CYCLES (41_bus_responder.md R181). -/
def responderInstr (S : BitVec 6) (u : Nat) : Instr :=
  match u with
  | 0 => .step ⟨.sig, .keep, false, .nrnw, 0⟩
  | 1 => .step ⟨.none, .input, true, .nrnw, 0⟩
  | 2 => .step ⟨.none, .keep, true, .rnw, S⟩
  | 3 => .capture ⟨.none, .keep, false, .nrnw, 0⟩
  | 4 => .step ⟨.none, .output, false, .nrnw, 0⟩
  | 5 => .drive ⟨.reply, .keep, true, .nrw, 0⟩
  | 6 => .step ⟨.none, .keep, false, .nrnw, S⟩
  | _ => .step ⟨.none, .input, true, .nrnw, 0⟩

/-- The instruction at UPC u of BM_PROG (40_bus_monitor.md R161). -/
def monitorInstr (u : Nat) : Instr :=
  match u with
  | 0 => .step ⟨.pinHigh, .keep, false, .nrnw, 0⟩
  | 1 => .step ⟨.pinLow, .keep, false, .nrnw, 0⟩
  | _ => .raise ⟨.none, .keep, false, .nrnw, 0⟩

/-- The settle word, for every SETTLE_CYCLES (41_bus_responder.md R186). -/
theorem settleWord_decodes (S : BitVec 6) :
    decodeFor .br (0x0600 + S.setWidth 16) = .instr (.step ⟨.none, .keep, true, .rnw, S⟩) := by
  revert S
  decide

/-- The data-hold word, for every SETTLE_CYCLES (41_bus_responder.md R193). -/
theorem dataHoldWord_decodes (S : BitVec 6) :
    decodeFor .br (0x0000 + S.setWidth 16) = .instr (.step ⟨.none, .keep, false, .nrnw, S⟩) := by
  revert S
  decide

theorem brProgram_decodes (S : BitVec 6) (u : Nat) (hu : u < 8) :
    ∃ w, (brProgram S)[u]? = some w ∧ decodeFor .br w = .instr (responderInstr S u) :=
  match u with
  | 2 => ⟨_, rfl, settleWord_decodes S⟩
  | 6 => ⟨_, rfl, dataHoldWord_decodes S⟩
  | 0 | 1 | 3 | 4 | 5 | 7 => ⟨_, rfl, rfl⟩
  | n + 8 => absurd hu (by omega)

theorem bmProgram_decodes (x : Sequencer) (hx : x ≠ .br) (u : Nat) (hu : u < 3) :
    ∃ w, bmProgram[u]? = some w ∧ decodeFor x w = .instr (monitorInstr u) := by
  cases x with
  | br => exact absurd rfl hx
  | bm0 | bm1 => interval_cases u <;> exact ⟨_, rfl, rfl⟩

/-- A sequencer runs the instruction that the word at its UPC decodes to (40_bus_monitor.md R160). -/
theorem seqTurn_eq {x : Sequencer} {s : State} {w : Word16} {i : Instr} (hw : fetchWord x s = some w)
    (hi : decodeFor x w = .instr i) : seqTurn x s = exec i { s with active := x } := by
  simp only [seqTurn, hw, hi]

/-- A turn of the Bus Responder runs the instruction at its UPC. -/
theorem seqTurn_responder {s : State} (hp : s.brProg = brProgram s.params.settleCycles) :
    seqTurn .br s = exec (responderInstr s.params.settleCycles s.bus.brUpc.toNat) { s with active := .br } := by
  obtain ⟨w, hw, hi⟩ := brProgram_decodes s.params.settleCycles s.bus.brUpc.toNat s.bus.brUpc.isLt
  exact seqTurn_eq (by rw [fetchWord, progOf, hp]; exact hw) hi

/-- A turn of a Bus Monitor runs the instruction at its UPC. -/
theorem seqTurn_monitor {x : Sequencer} {s : State} (hx : x ≠ .br) (hp : s.bmProg = bmProgram) (hu : upcOf x s < 3) :
    seqTurn x s = exec (monitorInstr (upcOf x s)) { s with active := x } := by
  obtain ⟨w, hw, hi⟩ := bmProgram_decodes x hx (upcOf x s) hu
  refine seqTurn_eq ?_ hi
  cases x with
  | br => exact absurd rfl hx
  | bm0 | bm1 => rw [fetchWord, progOf, hp]; exact hw

/-! ## What a Bus Responder's step can do -/

/-- The end of a Bus Responder's step: the UPC advances, or the hold starts (40_bus_monitor.md R160). -/
theorem advance_responder_bus {S : BitVec 6} {s : State} (hp : s.brProg = brProgram S) (h : BitVec 6) :
    (advance .br h s).bus =
      if h = 0 then { s.bus with brUpc := s.bus.brUpc + 1 } else { s.bus with brHold := h } := by
  have hnext : BitVec.ofNat 3 ((s.bus.brUpc.toNat + 1) % 8) = s.bus.brUpc + 1 := by
    apply BitVec.eq_of_toNat_eq
    simp [BitVec.toNat_add]
  unfold advance
  split
  · simp only [setUpc, nextUpc, upcOf, progOf, hp]
    exact congrArg (fun u => { s.bus with brUpc := u }) hnext
  · rfl

/-- A hold cycle of the Bus Responder: HOLD counts down, and at 0 the UPC advances (40_bus_monitor.md R160). -/
theorem holdCycle_responder_bus {S : BitVec 6} {s : State} (hp : s.brProg = brProgram S) :
    (holdCycle .br s).bus = { s.bus with
      brHold := s.bus.brHold - 1, brUpc := if s.bus.brHold - 1 = 0 then s.bus.brUpc + 1 else s.bus.brUpc } := by
  have hadv := advance_responder_bus (s := setHold .br (s.bus.brHold - 1) s) hp 0
  unfold holdCycle
  by_cases h : s.bus.brHold - 1 = 0
  · rw [if_pos (show holdOf .br s - 1 = 0 from h), if_pos h]
    exact hadv
  · rw [if_neg (show ¬holdOf .br s - 1 = 0 from h), if_neg h]
    rfl

/-- What a step of the Bus Responder in state s leaves in the bus engine's registers, UPC by UPC (41_bus_responder.md R184 to R194). -/
inductive ResponderMove (s : State) : Bus → Prop
  | stall : ResponderMove s s.bus
  | hold (held : s.bus.brHold ≠ 0) : ResponderMove s { s.bus with
      brHold := s.bus.brHold - 1, brUpc := if s.bus.brHold - 1 = 0 then s.bus.brUpc + 1 else s.bus.brUpc }
  | wake (upc : s.bus.brUpc = 0) (sig : s.bus.sig = true) : ResponderMove s { s.bus with sig := false, brUpc := 1 }
  | turnIn (upc : s.bus.brUpc = 1) : ResponderMove s { s.bus with dir := .input, ctrl := .nrnw, brUpc := 2 }
  | settle (upc : s.bus.brUpc = 2) (free : s.bus.brHold = 0) : ResponderMove s { s.bus with
      ctrl := .rnw, brHold := s.params.settleCycles, brUpc := if s.params.settleCycles = 0 then 3 else 2 }
  | capture (upc : s.bus.brUpc = 3) : ResponderMove s { s.bus with
      cap := capturedAddr s, addrFifo := s.bus.addrFifo ++ [capturedAddr s], brUpc := 4 }
  | turnOut (upc : s.bus.brUpc = 4) : ResponderMove s { s.bus with dir := .output, brUpc := 5 }
  | drive (upc : s.bus.brUpc = 5) (w : Word16) (rest : List Word16) (reply : s.bus.replyFifo = w :: rest) :
      ResponderMove s { s.bus with ctrl := .nrw, dout := w, replyFifo := rest, brUpc := 6 }
  | keep (upc : s.bus.brUpc = 6) (free : s.bus.brHold = 0) : ResponderMove s { s.bus with
      brHold := s.params.settleCycles, brUpc := if s.params.settleCycles = 0 then 7 else 6 }
  | release (upc : s.bus.brUpc = 7) : ResponderMove s { s.bus with dir := .input, ctrl := .nrnw, brUpc := 0 }

/-- A micro-step of the Bus Responder stalls, holds, or ends with the word's effects; the last is what differs from word to word. -/
theorem responderMove_of_microStep {S : BitVec 6} {f : MicroFields} {ready : State → Bool} {act : State → State → State}
    {s : State} (hp : s.brProg = brProgram S)
    (hact : (act s (ctrlEffect f.cw f.ctrl (dirEffect f.dir (waitEffect f.wait s)))).brProg = s.brProg)
    (hends : s.bus.brHold = 0 → waitReady .br f.wait s = true → ready s = true →
      ∀ b, b = (act s (ctrlEffect f.cw f.ctrl (dirEffect f.dir (waitEffect f.wait s)))).bus →
        ResponderMove s (if f.hold = 0 then { b with brUpc := b.brUpc + 1 } else { b with brHold := f.hold })) :
    ResponderMove s (microStep .br f ready act s).bus := by
  rcases microStep_cases .br f ready act s with ⟨-, h⟩ | ⟨-, hh, h⟩ | ⟨-, -, -, h⟩ | ⟨-, hh, hw, hr, h⟩ <;> rw [h]
  · exact .stall
  · rw [holdCycle_responder_bus hp]
    exact .hold hh
  · exact .stall
  · rw [advance_responder_bus (hact.trans hp)]
    exact hends hh hw hr _ rfl

theorem upc_cases (u : BitVec 3) : u = 0 ∨ u = 1 ∨ u = 2 ∨ u = 3 ∨ u = 4 ∨ u = 5 ∨ u = 6 ∨ u = 7 := by
  revert u
  decide

/-- A micro-word instruction that answers a next state ran as a micro-step of the active sequencer. -/
theorem microStep_of_exec {i : Instr} {f : MicroFields} {s t : State} {ready : State → Bool} {act : State → State → State}
    (hi : exec i s = runMicro i f ready act s) (h : exec i s = .next t) : t = microStep s.active f ready act s :=
  (runMicro_next _ _ _ _ _ _ (hi ▸ h)).2

/-- The instruction at the Bus Responder's UPC makes the move of that UPC. -/
theorem responderMove_of_exec {s t : State} (hp : s.brProg = brProgram s.params.settleCycles) (ha : s.active = .br)
    (h : exec (responderInstr s.params.settleCycles s.bus.brUpc.toNat) s = .next t) : ResponderMove s t.bus := by
  rcases upc_cases s.bus.brUpc with hu | hu | hu | hu | hu | hu | hu | hu <;> rw [hu] at h <;>
    obtain rfl := microStep_of_exec rfl h <;> rw [ha] <;>
    refine responderMove_of_microStep hp rfl fun free ready able b hb => ?_ <;> subst hb
  · convert ResponderMove.wake hu ready using 1
    simp [hu]
  · convert ResponderMove.turnIn hu using 1
    simp [hu]
  · convert ResponderMove.settle hu free using 1
    by_cases hS : s.params.settleCycles = 0#6 <;> simp [hu, hS, free]
  · convert ResponderMove.capture hu using 1
    simp [hu]
  · convert ResponderMove.turnOut hu using 1
    simp [hu]
  · obtain ⟨w, rest, hr⟩ := List.exists_cons_of_ne_nil (l := s.bus.replyFifo) (by simpa using able)
    convert ResponderMove.drive hu w rest hr using 1
    simp [hu, hr]
  · convert ResponderMove.keep hu free using 1
    by_cases hS : s.params.settleCycles = 0#6 <;> simp [hu, hS, free]
  · convert ResponderMove.release hu using 1
    simp [hu]

/-- Which sequencer was the active one does not matter to a move. -/
theorem ResponderMove.of_active {s : State} {x : Sequencer} {b : Bus} (h : ResponderMove { s with active := x } b) :
    ResponderMove s b := by
  cases h with
  | stall => exact .stall
  | hold held => exact .hold held
  | wake upc sig => exact .wake upc sig
  | turnIn upc => exact .turnIn upc
  | settle upc free => exact .settle upc free
  | capture upc => exact .capture upc
  | turnOut upc => exact .turnOut upc
  | drive upc w rest reply => exact .drive (s := s) upc w rest reply
  | keep upc free => exact .keep upc free
  | release upc => exact .release upc

/-- A turn of the Bus Responder is one of its moves. -/
theorem responderMove_of_seqTurn {s t : State} (hp : s.brProg = brProgram s.params.settleCycles)
    (h : seqTurn .br s = .next t) : ResponderMove s t.bus := by
  rw [seqTurn_responder hp] at h
  exact (responderMove_of_exec (s := { s with active := .br }) hp rfl h).of_active

/-! ## What the armed bus engine can do -/

/-- What a Bus Monitor's step writes: its own registers and SIG, and it is left between its steps (40_bus_monitor.md R160, R161). -/
structure MonitorMove (b c : Bus) : Prop where
  rest     : c = { b with bm0 := c.bm0, bm1 := c.bm1, sig := c.sig }
  monitor0 : monitorOk c.bm0
  monitor1 : monitorOk c.bm1

/-- The three words of a Bus Monitor hold for no cycle, so its step ends with its UPC at the next of them. -/
theorem monitorMove_advance {x : Sequencer} {s : State} (hx : x ≠ .br) (hp : s.bmProg = bmProgram)
    (h0 : monitorOk s.bus.bm0) (h1 : monitorOk s.bus.bm1) : MonitorMove s.bus (advance x 0 s).bus := by
  have next : ∀ y, progOf y s = bmProgram → (BitVec.ofNat 2 (nextUpc y s)).toNat < 3 := fun y hy => by
    have hlt : nextUpc y s < 3 := by
      rw [nextUpc, hy]
      exact Nat.mod_lt _ (by decide)
    rw [BitVec.toNat_ofNat]
    omega
  cases x with
  | br => exact absurd rfl hx
  | bm0 => exact ⟨rfl, ⟨next .bm0 hp, h0.2⟩, h1⟩
  | bm1 => exact ⟨rfl, h0, ⟨next .bm1 hp, h1.2⟩⟩

/-- A micro-step of a Bus Monitor whose word holds for no cycle and whose effects are on SIG alone. -/
theorem monitorMove_of_microStep {x : Sequencer} {f : MicroFields} {ready : State → Bool} {act : State → State → State}
    {s : State} (hx : x ≠ .br) (hp : s.bmProg = bmProgram) (h0 : monitorOk s.bus.bm0) (h1 : monitorOk s.bus.bm1)
    (hf : f.hold = 0)
    (hact : act s (ctrlEffect f.cw f.ctrl (dirEffect f.dir (waitEffect f.wait s))) = s ∨
      act s (ctrlEffect f.cw f.ctrl (dirEffect f.dir (waitEffect f.wait s))) = raiseSig s) :
    MonitorMove s.bus (microStep x f ready act s).bus := by
  have free : holdOf x s = 0 := by
    cases x with
    | br => exact absurd rfl hx
    | bm0 => exact h0.2
    | bm1 => exact h1.2
  rcases microStep_cases x f ready act s with ⟨-, h⟩ | ⟨-, held, -⟩ | ⟨-, -, -, h⟩ | ⟨-, -, -, -, h⟩
  · rw [h]
    exact ⟨rfl, h0, h1⟩
  · exact absurd free held
  · rw [h]
    exact ⟨rfl, h0, h1⟩
  · rw [h, hf]
    rcases hact with hact | hact <;> rw [hact]
    · exact monitorMove_advance hx hp h0 h1
    · obtain ⟨hr, hm0, hm1⟩ := monitorMove_advance (s := raiseSig s) hx hp h0 h1
      exact ⟨hr, hm0, hm1⟩

/-- A turn of a Bus Monitor is such a move. -/
theorem monitorMove_of_seqTurn {x : Sequencer} {s t : State} (hx : x ≠ .br) (hi : BusInv s) (h : seqTurn x s = .next t) :
    MonitorMove s.bus t.bus := by
  have hu : upcOf x s < 3 := by
    cases x with
    | br => exact absurd rfl hx
    | bm0 => exact hi.monitor0.1
    | bm1 => exact hi.monitor1.1
  rw [seqTurn_monitor hx hi.bmProg hu] at h
  have words : ∀ u, u < 3 → exec (monitorInstr u) { s with active := x } = .next t → MonitorMove s.bus t.bus := by
    intro u hu h
    interval_cases u <;> obtain rfl := microStep_of_exec rfl h
    · exact monitorMove_of_microStep (s := { s with active := x }) hx hi.bmProg hi.monitor0 hi.monitor1 rfl (.inl rfl)
    · exact monitorMove_of_microStep (s := { s with active := x }) hx hi.bmProg hi.monitor0 hi.monitor1 rfl (.inl rfl)
    · exact monitorMove_of_microStep (s := { s with active := x }) hx hi.bmProg hi.monitor0 hi.monitor1 rfl (.inr rfl)
  exact words _ hu h

/-- The parameters, the micro-program stores and RAM are as before. -/
structure StoresKept (s t : State) : Prop where
  params : t.params = s.params
  bmProg : t.bmProg = s.bmProg
  brProg : t.brProg = s.brProg
  ram    : t.ram = s.ram
  resets : t.resets = s.resets

theorem StoresKept.refl (s : State) : StoresKept s s := ⟨rfl, rfl, rfl, rfl, rfl⟩

theorem StoresKept.trans {s t u : State} (h : StoresKept s t) (h' : StoresKept t u) : StoresKept s u :=
  ⟨h'.params.trans h.params, h'.bmProg.trans h.bmProg, h'.brProg.trans h.brProg, h'.ram.trans h.ram,
    h'.resets.trans h.resets⟩

/-- What action a in state s leaves in the registers of an armed bus engine. -/
inductive ServingMove (s : State) : Action → Bus → Prop
  | monitor {x : Sequencer} {b : Bus} (hx : x ≠ .br) (move : MonitorMove s.bus b) : ServingMove s (.seq x) b
  | responder {b : Bus} (move : ResponderMove s b) : ServingMove s (.seq .br) b
  | lookup (c : Word32) (rest : List Word32) (fifo : s.bus.addrFifo = c :: rest) :
      ServingMove s .lu { s.bus with addrFifo := rest, replyFifo := s.bus.replyFifo ++ [ramRead16 s c] }
  | other {a : Action} (notBr : a ≠ .seq .br) : ServingMove s a s.bus

/-- While the pair is armed RL writes neither the bus engine nor RAM: a copy step and the ARM step are fatal (42_staging.md R222, R228). -/
theorem rlStep_armed {s t : State} (ha : s.bus.armed = true) (h : rlStep s = .next t) :
    t.bus = s.bus ∧ t.ram = s.ram ∧ t.resets = s.resets := by
  rcases rlStep_next s t h with rfl | ⟨-, -, hc⟩ | ⟨-, -, rfl⟩
  · exact ⟨rfl, rfl, rfl⟩
  · rcases rlCopyStep_next s t hc with ⟨-, rfl⟩ | ⟨hn, -⟩
    · exact ⟨rfl, rfl, rfl⟩
    · exact absurd ha (by simp [hn])
  · rcases armStep_cases s with ⟨-, h⟩ | ⟨hn, -⟩
    · rw [h]
      exact ⟨rfl, rfl, rfl⟩
    · exact absurd ha (by simp [hn])

/-- While the pair is armed, every action but a device reset keeps the stores (42_staging.md R229). -/
theorem runAction_storesKept {a : Action} {s t : State} (ha : s.bus.armed = true) (hr : a ≠ .deviceReset)
    (h : runAction a s = .next t) : StoresKept s t := by
  have hf := runAction_frame h
  obtain ⟨hbm, hbr, hparams⟩ := hf.stores_kept
  have hram : t.ram = s.ram ∧ t.resets = s.resets := by
    rcases hf.ram_writers with hram | rfl | rfl
    · exact hram
    · exact (rlStep_armed ha h).2
    · exact absurd rfl hr
  exact ⟨hparams, hbm, hbr, hram.1, hram.2⟩

/-- While the pair is armed, every action but a device reset is a move of the bus engine. -/
theorem runAction_servingMove {a : Action} {s t : State} (hi : BusInv s) (ha : s.bus.armed = true)
    (hr : a ≠ .deviceReset) (h : runAction a s = .next t) : ServingMove s a t.bus := by
  by_cases hbr : a = .seq .br
  · subst hbr
    exact .responder (responderMove_of_seqTurn hi.brProg h)
  rcases runAction_cases a s t h with ⟨x, rfl, h⟩ | ⟨rfl, rfl⟩ | ⟨rfl, h⟩ | ⟨rfl, h⟩ | ⟨rfl, rfl⟩ | ⟨rfl, rfl⟩ | ⟨w, rfl, h⟩ |
    ⟨rfl, -⟩ | ⟨h, -⟩
  · have hx : x ≠ .br := fun hx => hbr (congrArg Action.seq hx)
    exact .monitor hx (monitorMove_of_seqTurn hx hi h)
  · rcases luStep_cases s with h | ⟨c, rest, -, -, hq, h⟩ <;> rw [h]
    · exact .other hbr
    · have hbus : (pushReply (ramRead16 s c) (popAddr s)).bus =
          { s.bus with addrFifo := rest, replyFifo := s.bus.replyFifo ++ [ramRead16 s c] } := by simp [hq]
      rw [hbus]
      exact .lookup c rest hq
  · rw [(rlStep_armed ha h).1]
    exact .other hbr
  · rw [fsStep_frame s t h]
    exact .other hbr
  · rw [(mcStep_frame s).1]
    exact .other hbr
  · rw [(dbTick_frame s).1]
    exact .other hbr
  · rw [(writeCmd_frame h).1]
    exact .other hbr
  · exact absurd rfl hr
  · rw [h]
    exact .other hbr

/-! ## The invariant of the bus engine while the pair is armed -/

/-- A halfword of the window reads as before where the stores are kept. -/
theorem StoresKept.ramRead16_eq {s t : State} (h : StoresKept s t) (c : Word32) : ramRead16 t c = ramRead16 s c :=
  ramRead16_congr s t c h.ram h.resets

/-- Pins with the low bit forced to 0 give an even captured address (30_encoding.md R147). -/
theorem assembleAddr_even (hi pins : Word16) : (assembleAddr hi pins).getLsbD 0 = false := by
  rw [assembleAddr, BitVec.getLsbD_append]
  simp

/-- The high half of a captured address is ADDR_HI (30_encoding.md R147). -/
theorem assembleAddr_high (hi pins : Word16) : (assembleAddr hi pins).extractLsb' 16 16 = hi :=
  BitVec.extractLsb'_append_eq_left

/-- The phase depends on the Bus Responder's registers, the FIFOs and RAM: not on the monitors and SIG. -/
theorem brPhase_congr {n : Nat} {s t : State} (hb : t.bus = { s.bus with bm0 := t.bus.bm0, bm1 := t.bus.bm1, sig := t.bus.sig })
    (hk : StoresKept s t) (h : brPhase n s) : brPhase n t := by
  unfold brPhase inFlight fifosEmpty at h ⊢
  rw [hb]
  simp only [hk.ramRead16_eq]
  exact h

/-- The captured address: even, and in the window once the capture of the service is done (30_encoding.md R147). -/
def capOk (b : Bus) : Prop := b.cap.getLsbD 0 = false ∧ (4 ≤ b.brUpc.toNat → b.cap.extractLsb' 16 16 = b.addrHi)

/-- What is to show of a bus engine that stays armed. -/
theorem BusInv.of_armed {s t : State} (hi : BusInv s) (ha : s.bus.armed = true) (hk : StoresKept s t)
    (harm : t.bus.armed = s.bus.armed ∧ t.bus.addrHi = s.bus.addrHi) (h0 : monitorOk t.bus.bm0) (h1 : monitorOk t.bus.bm1)
    (hphase : brPhase t.bus.brUpc.toNat t) (hhold : t.bus.brHold.toNat ≤ s.params.settleCycles.toNat)
    (hcap : capOk t.bus) : BusInv t where
  bmProg := hk.bmProg.trans hi.bmProg
  brProg := by rw [hk.brProg, hk.params, hi.brProg]
  monitor0 := h0
  monitor1 := h1
  phase := hphase
  holdBound := by rwa [hk.params]
  capEven := hcap.1
  addrHi := fun _ => by rw [harm.2, hk.params, hi.addrHi ha]
  capInWin := hcap.2
  disarmed := fun h => by rw [harm.1, ha] at h; cases h

/-- Where only the monitors and SIG moved, the invariant stays. -/
theorem BusInv.of_monitorMove {s t : State} (hi : BusInv s) (ha : s.bus.armed = true) (hk : StoresKept s t)
    (h : MonitorMove s.bus t.bus) : BusInv t := by
  have hb := h.rest
  refine hi.of_armed ha hk ?_ h.monitor0 h.monitor1 ?_ ?_ ?_
  · rw [hb]
    exact ⟨rfl, rfl⟩
  · have hu : t.bus.brUpc = s.bus.brUpc := by rw [hb]
    rw [hu]
    exact brPhase_congr hb hk hi.phase
  · rw [hb]
    exact hi.holdBound
  · rw [hb]
    exact ⟨hi.capEven, hi.capInWin⟩

/-- The phase at a known UPC. -/
theorem BusInv.phase_at {s : State} {u : BitVec 3} (hi : BusInv s) (hu : s.bus.brUpc = u) : brPhase u.toNat s := hu ▸ hi.phase

/-- No hold is left between the Bus Responder's steps but at the two words that hold (41_bus_responder.md R186, R193). -/
theorem BusInv.brHold_zero {s : State} (hi : BusInv s) (h2 : s.bus.brUpc ≠ 2) (h6 : s.bus.brUpc ≠ 6) : s.bus.brHold = 0 := by
  have hp := hi.phase
  rcases upc_cases s.bus.brUpc with hu | hu | hu | hu | hu | hu | hu | hu <;> simp_all [brPhase]

/-- While a hold is running, the Bus Responder is at one of the two words that hold. -/
theorem BusInv.brUpc_of_hold {s : State} (hi : BusInv s) (held : s.bus.brHold ≠ 0) : s.bus.brUpc = 2 ∨ s.bus.brUpc = 6 := by
  by_contra hn
  obtain ⟨h2, h6⟩ := not_or.mp hn
  exact held (hi.brHold_zero h2 h6)

/-- Each move of the Bus Responder leads from the phase of its UPC to the next one (41_bus_responder.md R181). -/
theorem ResponderMove.keeps_phase {s t : State} (hi : BusInv s) (hk : StoresKept s t) (h : ResponderMove s t.bus) :
    brPhase t.bus.brUpc.toNat t := by
  generalize hb : t.bus = b at h
  cases h with
  | stall =>
    exact brPhase_congr (by rw [hb]) hk hi.phase
  | hold held =>
    by_cases hlast : s.bus.brHold - 1 = 0#6 <;> rcases hi.brUpc_of_hold held with hu | hu <;> have hp := hi.phase_at hu <;>
      simp_all [brPhase, fifosEmpty, hk.ramRead16_eq]
  | wake upc sig | turnIn upc | capture upc | turnOut upc | release upc =>
    have hp := hi.phase_at upc
    simp_all [brPhase, fifosEmpty, inFlight, hk.ramRead16_eq]
  | drive upc w rest reply =>
    obtain ⟨hdir, -, hfifo, hhold⟩ : brPhase 5 s := hi.phase_at upc
    simp_all [brPhase, fifosEmpty, inFlight, hk.ramRead16_eq]
  | settle upc free | keep upc free =>
    have hp := hi.phase_at upc
    by_cases hS : s.params.settleCycles = 0#6 <;> simp_all [brPhase, fifosEmpty, hk.ramRead16_eq]

/-- A move of the Bus Responder writes neither ARMED, ADDR_HI nor the monitors (10_state.md R68). -/
theorem ResponderMove.rest {s : State} {b : Bus} (h : ResponderMove s b) :
    b.armed = s.bus.armed ∧ b.addrHi = s.bus.addrHi ∧ b.bm0 = s.bus.bm0 ∧ b.bm1 = s.bus.bm1 := by
  cases h <;> exact ⟨rfl, rfl, rfl, rfl⟩

/-- HOLD never exceeds SETTLE_CYCLES: a word loads it, a hold cycle counts it down. -/
theorem ResponderMove.keeps_holdBound {s : State} {b : Bus} (hi : BusInv s) (h : ResponderMove s b) :
    b.brHold.toNat ≤ s.params.settleCycles.toNat := by
  have hb := hi.holdBound
  cases h with
  | settle | keep => exact Nat.le_refl _
  | hold held =>
    have hdown : (s.bus.brHold - 1).toNat ≤ s.bus.brHold.toNat := by bv_omega
    exact hdown.trans hb
  | stall | wake | turnIn | capture | turnOut | drive | release => exact hb

/-- CAP stays even and, from the capture to the end of the service, in the window (41_bus_responder.md R188, R200). -/
theorem ResponderMove.keeps_capOk {s : State} {b : Bus} (hi : BusInv s) (h : ResponderMove s b) : capOk b := by
  have hwin := hi.capInWin
  cases h with
  | capture => exact ⟨assembleAddr_even _ _, fun _ => assembleAddr_high _ _⟩
  | stall => exact ⟨hi.capEven, hwin⟩
  | hold held =>
    refine ⟨hi.capEven, fun h4 => hwin ?_⟩
    rcases hi.brUpc_of_hold held with hu | hu
    · simp only [hu] at h4
      split at h4 <;> simp at h4
    · simp [hu]
  | wake upc | turnIn upc | release upc => exact ⟨hi.capEven, fun h4 => by simp at h4⟩
  | settle upc free =>
    refine ⟨hi.capEven, fun h4 => ?_⟩
    simp only at h4
    split at h4 <;> simp at h4
  | turnOut upc | drive upc | keep upc => exact ⟨hi.capEven, fun _ => hwin (by simp [upc])⟩

/-- Every move of the Bus Responder keeps the invariant. -/
theorem BusInv.of_responderMove {s t : State} (hi : BusInv s) (ha : s.bus.armed = true) (hk : StoresKept s t)
    (h : ResponderMove s t.bus) : BusInv t := by
  obtain ⟨harm, hhi, h0, h1⟩ := h.rest
  exact hi.of_armed ha hk ⟨harm, hhi⟩ (h0 ▸ hi.monitor0) (h1 ▸ hi.monitor1) (h.keeps_phase hi hk) (h.keeps_holdBound hi)
    (h.keeps_capOk hi)

/-- A lookup turns the address in flight into the word in flight (41_bus_responder.md R196, R198). -/
theorem brPhase_lookup {s t : State} {c : Word32} {rest : List Word32} (hk : StoresKept s t)
    (hq : s.bus.addrFifo = c :: rest)
    (hb : t.bus = { s.bus with addrFifo := rest, replyFifo := s.bus.replyFifo ++ [ramRead16 s c] })
    (hp : brPhase s.bus.brUpc.toNat s) : brPhase s.bus.brUpc.toNat t := by
  rcases upc_cases s.bus.brUpc with hu | hu | hu | hu | hu | hu | hu | hu <;>
    simp_all [brPhase, fifosEmpty, inFlight, hk.ramRead16_eq]

/-- Every move of an armed bus engine keeps the invariant. -/
theorem BusInv.of_servingMove {s t : State} {a : Action} (hi : BusInv s) (ha : s.bus.armed = true) (hk : StoresKept s t)
    (h : ServingMove s a t.bus) : BusInv t ∧ t.bus.armed = true := by
  generalize hb : t.bus = b at h
  cases h with
  | monitor hx move =>
    have harm : b.armed = s.bus.armed := by rw [move.rest]
    exact ⟨hi.of_monitorMove ha hk (hb ▸ move), harm.trans ha⟩
  | responder move => exact ⟨hi.of_responderMove ha hk (hb ▸ move), move.rest.1.trans ha⟩
  | lookup c rest fifo =>
    have hu : t.bus.brUpc = s.bus.brUpc := by rw [hb]
    refine ⟨hi.of_armed ha hk ?_ ?_ ?_ (hu ▸ brPhase_lookup hk fifo hb hi.phase) ?_ ?_, ha⟩ <;> rw [hb]
    · exact ⟨rfl, rfl⟩
    · exact hi.monitor0
    · exact hi.monitor1
    · exact hi.holdBound
    · exact ⟨hi.capEven, hi.capInWin⟩
  | other =>
    have move : MonitorMove s.bus t.bus := by
      rw [hb]
      exact ⟨rfl, hi.monitor0, hi.monitor1⟩
    exact ⟨hi.of_monitorMove ha hk move, ha⟩

/-- Taking a turn touches no store. -/
theorem takeTurn_storesKept (s : State) : StoresKept s (takeTurn s) := ⟨rfl, rfl, rfl, rfl, rfl⟩

/-- Taking a turn touches no register. -/
theorem BusInv.after_takeTurn {s : State} (h : BusInv s) : BusInv (takeTurn s) where
  bmProg := h.bmProg
  brProg := h.brProg
  monitor0 := h.monitor0
  monitor1 := h.monitor1
  phase := brPhase_congr rfl (takeTurn_storesKept s) h.phase
  holdBound := h.holdBound
  capEven := h.capEven
  addrHi := h.addrHi
  capInWin := h.capInWin
  disarmed := h.disarmed

/-- A step that is no device reset, from an armed state of the invariant, is a move of the bus engine that keeps the stores. -/
theorem step_armed {s t : State} (hi : BusInv s) (ha : s.bus.armed = true) (hr : (nextTurn s).action ≠ .deviceReset)
    (h : step s = .next t) : StoresKept (takeTurn s) t ∧ ServingMove (takeTurn s) (nextTurn s).action t.bus :=
  ⟨runAction_storesKept (s := takeTurn s) ha hr h, runAction_servingMove hi.after_takeTurn ha hr h⟩

/-- Such a step keeps the invariant and the pair armed. -/
theorem step_keeps_busInv_armed {s t : State} (hi : BusInv s) (ha : s.bus.armed = true)
    (hr : (nextTurn s).action ≠ .deviceReset) (h : step s = .next t) : BusInv t ∧ t.bus.armed = true :=
  have ⟨hk, hm⟩ := step_armed hi ha hr h
  hi.after_takeTurn.of_servingMove ha hk hm

/-! ## A well-timed access (20_memory.md R104) -/

/-- Steps m to n - 1 of the sequence r complete, and none of them is a device reset. -/
def StepsWithoutReset (r : Nat → State) (m n : Nat) : Prop :=
  ∀ i, m ≤ i → i < n → step (r i) = .next (r (i + 1)) ∧ (nextTurn (r i)).action ≠ .deviceReset

theorem StepsWithoutReset.mono {r : Nat → State} {m m' n n' : Nat} (h : StepsWithoutReset r m n) (hm : m ≤ m')
    (hn : n' ≤ n) : StepsWithoutReset r m' n' := fun i hi hin => h i (hm.trans hi) (hin.trans_le hn)

/-- In s the pair is armed, its invariant holds, and it serves the image of s₀. -/
structure Serving (s₀ s : State) : Prop where
  inv    : BusInv s
  armed  : s.bus.armed = true
  stores : StoresKept s₀ s

/-- A step that is no device reset goes on serving. -/
theorem Serving.step {s₀ s t : State} (hs : Serving s₀ s)
    (h : step s = .next t ∧ (nextTurn s).action ≠ .deviceReset) : Serving s₀ t := by
  obtain ⟨hi, ha⟩ := step_keeps_busInv_armed hs.inv hs.armed h.2 h.1
  have hk := (step_armed hs.inv hs.armed h.2 h.1).1
  exact ⟨hi, ha, hs.stores.trans ((takeTurn_storesKept s).trans hk)⟩

/-- An armed pair goes on serving along any steps without a device reset. -/
theorem serving_along {r : Nat → State} {m n : Nat} (hi : BusInv (r m)) (ha : (r m).bus.armed = true)
    (hsteps : StepsWithoutReset r m n) : ∀ i, m ≤ i → i ≤ n → Serving (r m) (r i) :=
  holds_along ⟨hi, ha, .refl _⟩ fun i hm hn hs => hs.step (hsteps i hm hn)

/-! ### The wires -/

/-- Slot k is selected with address a presented. -/
structure Selected (k : Slot) (a : Word16) (s : State) : Prop where
  low  : csOf k s = .low
  addr : slotAddr k s = a

/-- Only HOST moves the chip-select lines and the addresses (20_memory.md R100). -/
theorem runAction_wires {a : Action} {s t : State} (h : runAction a s = .next t) :
    t.out = { s.out with button := t.out.button, samples := t.out.samples } ∨
    (∃ k w, a = .hostAssert k w ∧ t = hostAssert k w s) ∨ (∃ k, a = .hostDeassert k ∧ t = hostDeassert k s) := by
  cases a with
  | hostAssert k w => exact .inr (.inl ⟨k, w, rfl, (Host.Outcome.next.inj h).symm⟩)
  | hostDeassert k => exact .inr (.inr ⟨k, rfl, (Host.Outcome.next.inj h).symm⟩)
  | hostSample | setButton | readFname | readCsr | deviceReset =>
    obtain rfl := Host.Outcome.next.inj h
    exact .inl rfl
  | seq x => exact .inl (by rw [(seqTurn_frame h).1])
  | rl => exact .inl (by rw [(rlStep_frame h).1])
  | fs => exact .inl (by rw [fsStep_frame s t h])
  | lu =>
    obtain rfl := Host.Outcome.next.inj h
    exact .inl (by rw [(luStep_frame s).1])
  | mc =>
    obtain rfl := Host.Outcome.next.inj h
    exact .inl (by rw [(mcStep_frame s).1])
  | db =>
    obtain rfl := Host.Outcome.next.inj h
    exact .inl (by rw [(dbTick_frame s).1])
  | writeFname name =>
    simp only [runAction, writeFname] at h
    split at h <;> cases h
    exact .inl rfl
  | writeCsr n w =>
    simp only [runAction, writeCsr] at h
    split at h
    · exact .inl (by rw [(writeCmd_frame h).1])
    · cases h
      exact .inl rfl

/-- Selecting a slot that is high presents the address on it. -/
theorem selected_hostAssert {k : Slot} {a : Word16} {s : State} (h : csOf k s = .high) :
    Selected k a (hostAssert k a s) := by
  rw [hostAssert_high h]
  cases k <;> exact ⟨rfl, rfl⟩

/-- Driving the other slot's line leaves a selected slot alone. -/
theorem Selected.after_setCs_other {j k : Slot} {w : Word16} {l : Level} {s : State} (hjk : j ≠ k) (hs : Selected k w s) :
    Selected k w (setCs j l s) := by
  cases j <;> cases k
  case slot1.slot1 | slot2.slot2 => exact absurd rfl hjk
  all_goals exact ⟨hs.low, hs.addr⟩

/-- Presenting an address on the other slot leaves a selected slot alone. -/
theorem Selected.after_presentAddr_other {j k : Slot} {w v : Word16} {s : State} (hjk : j ≠ k) (hs : Selected k w s) :
    Selected k w (presentAddr j v s) := by
  cases j <;> cases k
  case slot1.slot1 | slot2.slot2 => exact absurd rfl hjk
  all_goals exact ⟨hs.low, hs.addr⟩

/-- A HostAssert leaves a selected slot alone: on the slot itself it is not enabled. -/
theorem Selected.after_hostAssert {j k : Slot} {w v : Word16} {s : State} (hs : Selected k w s) :
    Selected k w (hostAssert j v s) := by
  cases hj : csOf j s with
  | low => rwa [hostAssert_low hj]
  | high =>
    have hjk : j ≠ k := by
      rintro rfl
      rw [hs.low] at hj
      cases hj
    rw [hostAssert_high hj]
    exact (hs.after_setCs_other hjk).after_presentAddr_other hjk

/-- A HostDeassert of the other slot leaves a selected slot alone. -/
theorem Selected.after_hostDeassert_other {j k : Slot} {w : Word16} {s : State} (hjk : j ≠ k) (hs : Selected k w s) :
    Selected k w (hostDeassert j s) := by
  cases hj : csOf j s with
  | low =>
    rw [hostDeassert_low hj]
    exact hs.after_setCs_other hjk
  | high => rwa [hostDeassert_high hj]

/-- A slot is selected with its address until it is deselected. -/
theorem Selected.after_runAction {k : Slot} {w : Word16} {a : Action} {s t : State} (hs : Selected k w s)
    (ha : a ≠ .hostDeassert k) (h : runAction a s = .next t) : Selected k w t := by
  rcases runAction_wires h with hw | ⟨j, v, rfl, rfl⟩ | ⟨j, rfl, rfl⟩
  · obtain ⟨hlow, haddr⟩ := hs
    cases k <;> exact ⟨by rw [csOf, hw]; exact hlow, by rw [slotAddr, hw]; exact haddr⟩
  · exact hs.after_hostAssert
  · exact hs.after_hostDeassert_other fun hjk => ha (congrArg Action.hostDeassert hjk)

/-- The steps of a sequence from the one that selects slot k on leave it selected until it is deselected (20_memory.md R104 (b)). -/
theorem selected_until_deassert {r : Nat → State} {k : Slot} {a : Word16} {start n : Nat}
    (hsteps : StepsWithoutReset r start n)
    (hassert : (nextTurn (r start)).action = .hostAssert k a ∧ csOf k (r start) = .high)
    (hlow : ∀ i, start < i → i < n → (nextTurn (r i)).action ≠ .hostDeassert k) (hn : start < n) :
    Selected k a (r n) := by
  have hfirst : Selected k a (r (start + 1)) := by
    have h := (hsteps start (Nat.le_refl _) hn).1
    rw [step_eq, hassert.1] at h
    rw [← Host.Outcome.next.inj h]
    exact selected_hostAssert hassert.2
  refine holds_along hfirst (n := n) (fun i hi hin hs => ?_) n hn (Nat.le_refl _)
  have htaken : Selected k a (takeTurn (r i)) := ⟨hs.low, hs.addr⟩
  exact htaken.after_runAction (hlow i (by omega) hin) (hsteps i (by omega) hin).1

/-! ### The service -/

/-- A move of the Bus Responder leaves its UPC or goes to the next, and captures at UPC 3 alone. -/
theorem ResponderMove.service {s : State} {b : Bus} (h : ResponderMove s b) :
    (b.brUpc = s.bus.brUpc ∨ b.brUpc = s.bus.brUpc + 1) ∧ (s.bus.brUpc ≠ 3 → b.cap = s.bus.cap) := by
  cases h with
  | stall => exact ⟨.inl rfl, fun _ => rfl⟩
  | hold held =>
    refine ⟨?_, fun _ => rfl⟩
    dsimp only
    split
    · exact .inr rfl
    · exact .inl rfl
  | wake upc | turnIn upc | turnOut upc | drive upc | release upc => exact ⟨.inr (by rw [upc]; rfl), fun _ => rfl⟩
  | capture upc => exact ⟨.inr (by rw [upc]; rfl), fun h => absurd upc h⟩
  | settle upc free | keep upc free =>
    refine ⟨?_, fun _ => rfl⟩
    dsimp only
    rw [upc]
    split
    · exact .inr rfl
    · exact .inl rfl

/-- A move of the bus engine that is not the Bus Responder's leaves UPC and CAP alone. -/
theorem ServingMove.cases_responder {s : State} {a : Action} {b : Bus} (h : ServingMove s a b) :
    (b.brUpc = s.bus.brUpc ∧ b.cap = s.bus.cap) ∨ (a = .seq .br ∧ ResponderMove s b) := by
  cases h with
  | monitor hx move => exact .inl (by rw [move.rest]; exact ⟨rfl, rfl⟩)
  | responder move => exact .inr ⟨rfl, move⟩
  | lookup | other => exact .inl ⟨rfl, rfl⟩

/-- The capture step writes the captured address of its state (41_bus_responder.md R187, R188). -/
theorem ResponderMove.leaves_capture {s : State} {b : Bus} (hi : BusInv s) (h : ResponderMove s b)
    (hu : s.bus.brUpc = 3) (hleave : b.brUpc ≠ 3) : b.brUpc = 4 ∧ b.cap = capturedAddr s := by
  cases h with
  | capture => exact ⟨rfl, rfl⟩
  | stall => exact absurd hu hleave
  | hold held => exact absurd (hi.brHold_zero (by simp [hu]) (by simp [hu])) held
  | wake upc | turnIn upc | turnOut upc | drive upc | release upc | settle upc | keep upc =>
    rw [hu] at upc
    exact absurd upc (by decide)

/-- The step's Bus Responder is at UPC u and leaves it, in terms of the register. -/
theorem brLeaves_iff (u : BitVec 3) (r : Nat → State) (i : Nat) :
    brLeaves u.toNat r i ↔
      (nextTurn (r i)).action = .seq .br ∧ (r i).bus.brUpc = u ∧ (r (i + 1)).bus.brUpc ≠ u := by
  simp only [brLeaves, ne_eq, BitVec.toNat_inj]

/-- The capture step of a serving pair takes the address of the one selected slot into CAP (20_memory.md R102, 30_encoding.md R147). -/
theorem cap_after_capture {r : Nat → State} {k : Slot} {a : Word16} {i : Nat} {s₀ : State} (hs : Serving s₀ (r i))
    (hstep : step (r i) = .next (r (i + 1)) ∧ (nextTurn (r i)).action ≠ .deviceReset) (hsel : Selected k a (r i))
    (hother : csOf (otherSlot k) (r i) = .high) (hcap : brLeaves 3 r i) :
    (r (i + 1)).bus.brUpc = 4 ∧ (r (i + 1)).bus.cap = assembleAddr s₀.params.winHigh a := by
  obtain ⟨-, hu, hleave⟩ := (brLeaves_iff 3 r i).1 hcap
  obtain ⟨hdir, hctrl, -⟩ : brPhase 3 (r i) := hs.inv.phase_at hu
  rcases (step_armed hs.inv hs.armed hstep.2 hstep.1).2.cases_responder with ⟨hsame, -⟩ | ⟨-, move⟩
  · exact absurd (hsame.trans hu) hleave
  · obtain ⟨hu', hc⟩ := move.leaves_capture hs.inv.after_takeTurn hu hleave
    have hpins : sampleAd (takeTurn (r i)) = a :=
      (sampleAd_selected (s := takeTurn (r i)) hdir hctrl hsel.low hother).trans hsel.addr
    rw [hc, capturedAddr, hpins]
    exact ⟨hu', congrArg (assembleAddr · a) ((hs.inv.addrHi hs.armed).trans (congrArg Params.winHigh hs.stores.params))⟩

/-- A step of a serving pair that is not at the capture keeps CAP, and only the Bus Responder's own step leaves its UPC, for the next. -/
theorem step_service {s₀ s t : State} (hs : Serving s₀ s)
    (hstep : step s = .next t ∧ (nextTurn s).action ≠ .deviceReset) (hu : s.bus.brUpc ≠ 3) :
    t.bus.cap = s.bus.cap ∧
      (t.bus.brUpc = s.bus.brUpc ∨ ((nextTurn s).action = .seq .br ∧ t.bus.brUpc = s.bus.brUpc + 1)) := by
  rcases (step_armed hs.inv hs.armed hstep.2 hstep.1).2.cases_responder with ⟨hsame, hc⟩ | ⟨ha, move⟩
  · exact ⟨hc, .inl hsame⟩
  · obtain ⟨hupc, hc⟩ := move.service
    exact ⟨hc hu, hupc.imp_right fun h => ⟨ha, h⟩⟩

/-- The service of the captured address c is at UPC u or the one after it. -/
def serviceAt (c : Word32) (u : BitVec 3) (s : State) : Prop :=
  s.bus.cap = c ∧ (s.bus.brUpc = u ∨ s.bus.brUpc = u + 1)

/-- A service past its capture stays at two UPCs until it leaves the second. -/
theorem serviceAt_until_left {r : Nat → State} {c : Word32} {u : BitVec 3} {m n : Nat} {s₀ : State} (hmn : m ≤ n)
    (hu : u ≠ 3) (hu' : u + 1 ≠ 3) (h0 : serviceAt c u (r m)) (hs : ∀ i, m ≤ i → i < n → Serving s₀ (r i))
    (hsteps : StepsWithoutReset r m n)
    (hstay : ∀ i, m ≤ i → i < n → ¬ brLeaves (u + 1).toNat r i) : serviceAt c u (r n) := by
  refine holds_along h0 (n := n) (fun i hm hn hat => ?_) n hmn (Nat.le_refl _)
  obtain ⟨hcap, hat⟩ := hat
  have hne : (r i).bus.brUpc ≠ 3 := by rcases hat with hat | hat <;> rwa [hat]
  obtain ⟨hc, hmove⟩ := step_service (hs i hm hn) (hsteps i hm hn) hne
  refine ⟨hc.trans hcap, ?_⟩
  rcases hmove with hsame | ⟨hbr, hnext⟩
  · rwa [hsame]
  · rcases hat with hat | hat
    · exact .inr (by rw [hnext, hat])
    · by_contra hleft
      exact hstay i hm hn ((brLeaves_iff _ r i).2 ⟨hbr, hat, fun h => hleft (.inr h)⟩)

/-- While data is valid the host sees the word at CAP (41_bus_responder.md R191). -/
theorem hostSees_dataValid {s : State} (hi : BusInv s) (hu : s.bus.brUpc = 6 ∨ s.bus.brUpc = 7) :
    hostSees s = ⟨ramRead16 s s.bus.cap, true⟩ := by
  have hvalid : s.bus.dir = .output ∧ s.bus.ctrl = .nrw ∧ fifosEmpty s ∧ s.bus.dout = ramRead16 s s.bus.cap := by
    rcases hu with hu | hu
    · exact hi.phase_at hu
    · obtain ⟨hdir, hctrl, hfifo, hdout, -⟩ : brPhase 7 s := hi.phase_at hu
      exact ⟨hdir, hctrl, hfifo, hdout⟩
  obtain ⟨hdir, hctrl, -, hdout⟩ := hvalid
  rw [hostSees_valid ⟨hdir, hctrl⟩, hdout]

/-! ### The promised word -/

/-- RAM_WIN_BASE is 64 KiB aligned (00_scope.md R10, 20_memory.md R107). -/
theorem Params.wf_winBase {p : Params} (h : p.wf = true) : p.ramWinBase.toNat % 65536 = 0 := by
  simp only [Params.wf, Bool.and_eq_true, decide_eq_true_eq, and_assoc] at h
  obtain ⟨-, -, -, -, -, -, -, -, -, hwin, -⟩ := h
  exact hwin

/-- A captured address is RAM_WIN_BASE plus the even bus address (41_bus_responder.md R200). -/
theorem assembleAddr_winHigh {p : Params} (h : p.wf = true) (a : Word16) :
    assembleAddr p.winHigh a = p.ramWinBase + (a &&& 0xFFFE).setWidth 32 := by
  have hbase := Params.wf_winBase h
  have hlo := (a &&& 0xFFFE).isLt
  have hwin := p.ramWinBase.isLt
  apply BitVec.eq_of_toNat_eq
  rw [assembleAddr, BitVec.toNat_append, ← Nat.shiftLeft_add_eq_or_of_lt hlo, Params.winHigh, BitVec.toNat_add,
    BitVec.extractLsb'_toNat, BitVec.toNat_setWidth, Nat.shiftLeft_eq, Nat.shiftRight_eq_div_pow]
  omega

/-- The promised word is the halfword at the captured address (20_memory.md R104, 41_bus_responder.md R200). -/
theorem promisedWord_eq {s₀ s : State} (hp : premises s₀ = true) (hs : Serving s₀ s) (a : Word16) :
    promisedWord s a = ramRead16 s₀ (assembleAddr s₀.params.winHigh a) := by
  have hwf : s₀.params.wf = true := ((Bool.and_eq_true _ _).mp hp).1
  rw [promisedWord, hs.stores.ramRead16_eq, hs.stores.params, assembleAddr_winHigh hwf]

/-! ### The access -/

/-- The capture of a well-timed access takes its address: its slot is still selected, and no other is (20_memory.md R104 (b), (c)). -/
theorem WellTimed.captures {r : Nat → State} {k : Slot} {a : Word16} {start capture drive sample : Nat}
    (hw : WellTimed r k a start capture drive sample) (hsteps : StepsWithoutReset r start (capture + 1))
    (hserve : Serving (r start) (r capture)) :
    serviceAt (assembleAddr (r start).params.winHigh a) 4 (r (capture + 1)) := by
  obtain ⟨hsc, hcap, hheld⟩ := hw.captured
  have hsel : Selected k a (r capture) :=
    selected_until_deassert (hsteps.mono (Nat.le_refl _) (Nat.le_succ _)) hw.asserts hheld hsc
  have hother : csOf (otherSlot k) (r capture) = .high := by
    refine hw.alone capture hsc.le fun m hm hmc => ?_
    rcases Nat.eq_or_lt_of_le hm with rfl | hm
    · rw [hw.asserts.1]
      exact Action.noConfusion
    · exact hheld m hm hmc
  obtain ⟨hu, hc⟩ := cap_after_capture hserve (hsteps capture hsc.le (Nat.lt_succ_self _)) hsel hother hcap
  exact ⟨hc, .inl hu⟩

/-- The step at UPC 5 that leaves it takes the service to the data-hold (41_bus_responder.md R190). -/
theorem serviceAt_after_drive {r : Nat → State} {c : Word32} {i : Nat} {s₀ : State} (hs : Serving s₀ (r i))
    (hstep : step (r i) = .next (r (i + 1)) ∧ (nextTurn (r i)).action ≠ .deviceReset) (hat : serviceAt c 4 (r i))
    (hdrive : brLeaves 5 r i) : serviceAt c 6 (r (i + 1)) := by
  obtain ⟨-, hu, hleave⟩ := (brLeaves_iff 5 r i).1 hdrive
  obtain ⟨hcap, hmove⟩ := step_service hs hstep (by rw [hu]; decide)
  refine ⟨hcap.trans hat.1, .inl ?_⟩
  rcases hmove with hsame | ⟨-, hnext⟩
  · exact absurd (hsame.trans hu) hleave
  · rw [hnext, hu]
    rfl

/-- At the sample of a well-timed access its own address is still in CAP and data is valid (20_memory.md R104 (d)). -/
theorem WellTimed.serviceAt_sample {r : Nat → State} {k : Slot} {a : Word16} {start capture drive sample : Nat}
    (hw : WellTimed r k a start capture drive sample) (hsteps : StepsWithoutReset r start sample)
    (hserve : ∀ i, start ≤ i → i ≤ sample → Serving (r start) (r i)) :
    serviceAt (assembleAddr (r start).params.winHigh a) 6 (r sample) := by
  have hsc : start < capture := hw.captured.1
  obtain ⟨hcd, hdrive, hfirst⟩ := hw.driven
  obtain ⟨hds, -, hunreleased⟩ := hw.sampled
  have hcaptured := hw.captures (hsteps.mono (Nat.le_refl _) (by omega)) (hserve capture (by omega) (by omega))
  have hatDrive := serviceAt_until_left (m := capture + 1) hcd (by decide) (by decide) hcaptured
    (fun i hi hin => hserve i (by omega) (by omega)) (hsteps.mono (by omega) (by omega)) hfirst
  have hdriven := serviceAt_after_drive (hserve drive (by omega) (by omega)) (hsteps drive (by omega) hds) hatDrive hdrive
  exact serviceAt_until_left (m := drive + 1) hds (by decide) (by decide) hdriven
    (fun i hi hin => hserve i (by omega) (by omega)) (hsteps.mono (by omega) (Nat.le_refl _)) hunreleased

/-- Settles O60: at the sample data is valid and CAP is the access's own address, in a window that still holds the same bytes. -/
theorem wellTimedReadReturnsTheWord : Obligations.WellTimedReadReturnsTheWord := by
  intro r k a start capture drive sample hinv hprem harm hrun hw
  have hsteps : StepsWithoutReset r start (sample + 1) := fun i hi hin => hrun i hi (Nat.le_of_lt_succ hin)
  have hserve := serving_along hinv.bus harm hsteps
  have hle : start ≤ sample := hw.captured.1.le.trans (hw.driven.1.le.trans hw.sampled.1.le)
  obtain ⟨hcap, hu⟩ := hw.serviceAt_sample (hsteps.mono (Nat.le_refl _) (Nat.le_succ _))
    fun i hi hin => hserve i hi (Nat.le_succ_of_le hin)
  have hs := hserve sample hle (Nat.le_succ _)
  have hword := promisedWord_eq hprem hs a
  have hsees : hostSees (takeTurn (r sample)) = ⟨promisedWord (r sample) a, true⟩ := by
    rw [hostSees_dataValid hs.inv.after_takeTurn hu, hword, ← hcap]
    exact congrArg (Sample.mk · true) (hs.stores.ramRead16_eq _)
  have hnext := (hsteps sample hle (Nat.lt_succ_self _)).1
  rw [step_eq, hw.sampled.2.1] at hnext
  refine ⟨?_, hword.trans (promisedWord_eq hprem (hserve start (Nat.le_refl _) (Nat.le_succ_of_le hle)) a).symm⟩
  simp only [← Host.Outcome.next.inj hnext, hostSample_out, hsees, takeTurn_rest]

end Sys2Proof.Machine
end

section
/-! Decoding and encoding are inverse (spec/30_encoding.md): the fields of an encoded micro-word, which words are an encoding, and which of
them are well-formed for a sequencer, said of the instruction and of the word's bits; the commands and the mode code. -/

namespace Sys2Proof

open Sys2Proof.Machine

/-! ## The codes of the fields -/

theorem waitOfBits_eq_some_iff (b : BitVec 3) (w : Wait) : waitOfBits b = some w ↔ waitBits w = b := by
  revert b
  cases w <;> decide

/-- The WAIT codes above 4 are reserved (30_encoding.md R133, R138). -/
theorem waitOfBits_isSome_iff (b : BitVec 3) : (waitOfBits b).isSome ↔ b.toNat ≤ 4 := by
  revert b
  decide

theorem dirOpOfBits_eq_some_iff (b : BitVec 2) (d : DirOp) : dirOpOfBits b = some d ↔ dirOpBits d = b := by
  revert b
  cases d <;> decide

/-- The DIR code 3 is reserved (30_encoding.md R134, R138). -/
theorem dirOpOfBits_isSome_iff (b : BitVec 2) : (dirOpOfBits b).isSome ↔ b ≠ 3 := by
  revert b
  decide

@[simp] theorem ctrlOfBits_ctrlBits (c : CtrlLevel) : ctrlOfBits (ctrlBits c) = c := by
  cases c <;> rfl

@[simp] theorem ctrlBits_ctrlOfBits (b : BitVec 2) : ctrlBits (ctrlOfBits b) = b := by
  revert b
  decide

theorem act_cases (act : BitVec 2) : act = 0 ∨ act = 1 ∨ act = 2 ∨ act = 3 := by
  revert act
  decide

/-! ## The fields of a micro-word (R131) -/

/-- Each field of an encoded micro-word is the code it was made of. -/
theorem encodeMicro_fields (act : BitVec 2) (f : MicroFields) :
    (encodeMicro act f).extractLsb' 13 3 = waitBits f.wait ∧ (encodeMicro act f).extractLsb' 11 2 = dirOpBits f.dir ∧
    (encodeMicro act f).getLsbD 10 = f.cw ∧ (encodeMicro act f).extractLsb' 8 2 = ctrlBits f.ctrl ∧
    (encodeMicro act f).extractLsb' 6 2 = act ∧ (encodeMicro act f).extractLsb' 0 6 = f.hold := by
  unfold encodeMicro
  refine ⟨BitVec.eq_of_getLsbD_eq fun i hi => ?_, BitVec.eq_of_getLsbD_eq fun i hi => ?_, ?_,
    BitVec.eq_of_getLsbD_eq fun i hi => ?_, BitVec.eq_of_getLsbD_eq fun i hi => ?_, BitVec.eq_of_getLsbD_eq fun i hi => ?_⟩
  all_goals simp only [BitVec.getLsbD_extractLsb', BitVec.getLsbD_append]
  case refine_3 => simp
  all_goals interval_cases i <;> simp

/-- A word is its six fields side by side. -/
theorem append_fields (w : Word16) :
    w.extractLsb' 13 3 ++ w.extractLsb' 11 2 ++ BitVec.ofBool (w.getLsbD 10) ++ w.extractLsb' 8 2 ++ w.extractLsb' 6 2 ++
      w.extractLsb' 0 6 = w := by
  refine BitVec.eq_of_getLsbD_eq fun i hi => ?_
  simp only [BitVec.getLsbD_append, BitVec.getLsbD_extractLsb', BitVec.getLsbD_ofBool]
  interval_cases i <;> simp

/-- A word whose WAIT and DIR fields have a meaning is the encoding of its fields. -/
theorem encodeMicro_of_fields {w : Word16} {wait : Wait} {dir : DirOp} (hwait : waitBits wait = w.extractLsb' 13 3)
    (hdir : dirOpBits dir = w.extractLsb' 11 2) :
    encodeMicro (w.extractLsb' 6 2) ⟨wait, dir, w.getLsbD 10, ctrlOfBits (w.extractLsb' 8 2), w.extractLsb' 0 6⟩ = w := by
  simp only [encodeMicro, hwait, hdir, ctrlBits_ctrlOfBits]
  exact append_fields w

/-- A word whose WAIT and DIR fields are not reserved is an encoding (30_encoding.md R138). -/
theorem exists_encodeMicro {w : Word16} (hwait : (w.extractLsb' 13 3).toNat ≤ 4) (hdir : w.extractLsb' 11 2 ≠ 3) :
    ∃ act f, encodeMicro act f = w := by
  obtain ⟨wait, hwait⟩ := Option.isSome_iff_exists.1 ((waitOfBits_isSome_iff _).2 hwait)
  obtain ⟨dir, hdir⟩ := Option.isSome_iff_exists.1 ((dirOpOfBits_isSome_iff _).2 hdir)
  exact ⟨_, _, encodeMicro_of_fields ((waitOfBits_eq_some_iff _ _).1 hwait) ((dirOpOfBits_eq_some_iff _ _).1 hdir)⟩

/-! ## The instructions of a micro-word -/

@[simp] theorem encode_instrOfAct (act : BitVec 2) (f : MicroFields) : encode (instrOfAct act f) = encodeMicro act f := by
  rcases act_cases act with rfl | rfl | rfl | rfl <;> rfl

/-- R137 for a Bus Monitor: the ACT is step or raise. -/
theorem instrOfAct_bmWord (act : BitVec 2) (f : MicroFields) :
    (instrOfAct act f).bmWord = true ↔ act.toNat ≤ 1 ∧ f.bmOk = true := by
  rcases act_cases act with rfl | rfl | rfl | rfl <;> simp [instrOfAct, Instr.bmWord]

/-- R137 for the Bus Responder: the ACT is not raise. -/
theorem instrOfAct_brWord (act : BitVec 2) (f : MicroFields) :
    (instrOfAct act f).brWord = true ↔ act ≠ 1 ∧ f.brOk = true := by
  rcases act_cases act with rfl | rfl | rfl | rfl <;> simp [instrOfAct, Instr.brWord]

theorem bmOk_iff (f : MicroFields) :
    f.bmOk = true ↔
      (f.wait = .none ∨ f.wait = .pinHigh ∨ f.wait = .pinLow) ∧ f.dir = .keep ∧ f.cw = false ∧ f.ctrl = .nrnw := by
  simp [MicroFields.bmOk, and_assoc, or_assoc]

theorem brOk_iff (f : MicroFields) :
    f.brOk = true ↔ (f.wait = .none ∨ f.wait = .sig ∨ f.wait = .reply) ∧ f.ctrlFieldOk = true := by
  simp [MicroFields.brOk, or_assoc]

theorem ctrlFieldOk_iff (f : MicroFields) :
    f.ctrlFieldOk = true ↔ (f.cw = true → f.ctrl ≠ .rw) ∧ (f.cw = false → f.ctrl = .nrnw) := by
  cases h : f.cw <;> simp [MicroFields.ctrlFieldOk, h]

/-- An instruction legal in a sequencer is one of the four micro-words. -/
theorem exists_instrOfAct {x : Sequencer} {i : Instr} (h : i.legalFor x = true) : ∃ act f, i = instrOfAct act f := by
  cases i with
  | step f => exact ⟨0, f, rfl⟩
  | raise f => exact ⟨1, f, rfl⟩
  | capture f => exact ⟨2, f, rfl⟩
  | drive f => exact ⟨3, f, rfl⟩
  | nop | launch m | handoff => cases x <;> cases h

/-- In every sequencer a legal micro-word has a CTRL field that goes with its CW (30_encoding.md R135, R137). -/
theorem ctrlFieldOk_of_legalFor {x : Sequencer} {act : BitVec 2} {f : MicroFields}
    (h : (instrOfAct act f).legalFor x = true) : f.ctrlFieldOk = true := by
  cases x with
  | br => exact ((brOk_iff f).1 ((instrOfAct_brWord act f).1 h).2).2
  | bm0 | bm1 =>
    obtain ⟨-, -, hcw, hctrl⟩ := (bmOk_iff f).1 ((instrOfAct_bmWord act f).1 h).2
    simp [ctrlFieldOk_iff, hcw, hctrl]

/-! ## The decoder of a sequencer -/

theorem decodeMicro_encodeMicro (act : BitVec 2) (f : MicroFields) :
    decodeMicro (encodeMicro act f) = if f.ctrlFieldOk then .instr (instrOfAct act f) else .refused .reservedCtrl := by
  obtain ⟨hwait, hdir, hcw, hctrl, hact, hhold⟩ := encodeMicro_fields act f
  have hw : waitOfBits (waitBits f.wait) = some f.wait := (waitOfBits_eq_some_iff _ _).2 rfl
  have hd : dirOpOfBits (dirOpBits f.dir) = some f.dir := (dirOpOfBits_eq_some_iff _ _).2 rfl
  simp only [decodeMicro, hwait, hdir, hcw, hctrl, hact, hhold, hw, hd, ctrlOfBits_ctrlBits]

/-- A word that decodes by its fields is the encoding of what it decodes to. -/
theorem encode_of_decodeMicro {w : Word16} {i : Instr} (h : decodeMicro w = .instr i) : encode i = w := by
  unfold decodeMicro at h
  split at h
  · cases h
  · rename_i wait hwait
    split at h
    · cases h
    · rename_i dir hdir
      dsimp only at h
      split at h
      · cases h
        rw [encode_instrOfAct]
        exact encodeMicro_of_fields ((waitOfBits_eq_some_iff _ _).1 hwait) ((dirOpOfBits_eq_some_iff _ _).1 hdir)
      · cases h

/-- A sequencer decodes exactly the encodings of the instructions that are legal in it (30_encoding.md R131 to R138). -/
theorem decodeFor_eq_instr_iff (x : Sequencer) (w : Word16) (i : Instr) :
    decodeFor x w = .instr i ↔ encode i = w ∧ i.legalFor x = true := by
  constructor
  · intro h
    refine ⟨?_, decodeFor_legal h⟩
    unfold decodeFor at h
    split at h
    · cases h
    · rename_i j hj
      split at h
      · cases h
        exact encode_of_decodeMicro hj
      · cases h
  · rintro ⟨rfl, hl⟩
    obtain ⟨act, f, rfl⟩ := exists_instrOfAct hl
    simp [decodeFor, decodeMicro_encodeMicro, ctrlFieldOk_of_legalFor hl, hl]

/-- The CMD register decodes the encoded word of every command (30_encoding.md R143). -/
theorem decodeCommand_encode {i : Instr} (h : i.isCommand = true) : decodeCommand (encode i) = .instr i := by
  cases i with
  | step f | raise f | capture f | drive f => cases h
  | nop | handoff => rfl
  | launch m => cases m <;> rfl

/-- Settles O1: the encoded word is decoded, since it is an encoding of a legal instruction, and every command is read back. -/
theorem decodeReadsEveryEncodedInstruction : Obligations.DecodeReadsEveryEncodedInstruction :=
  ⟨fun x i hl => (decodeFor_eq_instr_iff x _ i).2 ⟨rfl, hl⟩, fun _ => decodeCommand_encode⟩

/-- Settles O2: the decoder answers only what the word encodes. -/
theorem decodedMicroWordEncodesBack : Obligations.DecodedMicroWordEncodesBack :=
  fun x w i => (decodeFor_eq_instr_iff x w i).1

/-! ## Well-formed words by their bits (R137, R138) -/

/-- The word's fields are those of a well-formed Bus Monitor word (30_encoding.md R137). -/
def MonitorForm (w : Word16) : Prop :=
  (w.extractLsb' 13 3).toNat ≤ 2 ∧ w.extractLsb' 11 2 = 0 ∧ w.getLsbD 10 = false ∧ w.extractLsb' 8 2 = 0 ∧
    (w.extractLsb' 6 2).toNat ≤ 1

/-- The word's fields are those of a well-formed Bus Responder word (30_encoding.md R137). -/
def ResponderForm (w : Word16) : Prop :=
  ((w.extractLsb' 13 3).toNat = 0 ∨ (w.extractLsb' 13 3).toNat = 3 ∨ (w.extractLsb' 13 3).toNat = 4) ∧
    w.extractLsb' 11 2 ≠ 3 ∧ (w.getLsbD 10 = true → w.extractLsb' 8 2 ≠ 3) ∧
    (w.getLsbD 10 = false → w.extractLsb' 8 2 = 0) ∧ w.extractLsb' 6 2 ≠ 1

/-- No field of the word holds an encoding that R138 reserves in every sequencer. -/
structure Unreserved (w : Word16) : Prop where
  wait  : (w.extractLsb' 13 3).toNat ≤ 4
  dir   : w.extractLsb' 11 2 ≠ 3
  level : w.getLsbD 10 = true → w.extractLsb' 8 2 ≠ 3
  empty : w.getLsbD 10 = false → w.extractLsb' 8 2 = 0

theorem MonitorForm.unreserved {w : Word16} (h : MonitorForm w) : Unreserved w := by
  obtain ⟨hwait, hdir, hcw, hctrl, -⟩ := h
  exact ⟨by omega, by simp [hdir], fun _ => by simp [hctrl], fun _ => hctrl⟩

theorem ResponderForm.unreserved {w : Word16} (h : ResponderForm w) : Unreserved w := by
  obtain ⟨hwait, hdir, hlevel, hempty, -⟩ := h
  exact ⟨by omega, hdir, hlevel, hempty⟩

theorem waitBits_toNat_le_two (w : Wait) : (waitBits w).toNat ≤ 2 ↔ w = .none ∨ w = .pinHigh ∨ w = .pinLow := by
  cases w <;> decide

theorem waitBits_toNat_responder (w : Wait) :
    (waitBits w).toNat = 0 ∨ (waitBits w).toNat = 3 ∨ (waitBits w).toNat = 4 ↔ w = .none ∨ w = .sig ∨ w = .reply := by
  cases w <;> decide

theorem dirOpBits_eq_zero (d : DirOp) : dirOpBits d = 0 ↔ d = .keep := by
  cases d <;> decide

theorem dirOpBits_ne_three (d : DirOp) : dirOpBits d ≠ 3 := by
  cases d <;> decide

theorem ctrlBits_eq_zero (c : CtrlLevel) : ctrlBits c = 0 ↔ c = .nrnw := by
  cases c <;> decide

theorem ctrlBits_eq_three (c : CtrlLevel) : ctrlBits c = 3 ↔ c = .rw := by
  cases c <;> decide

theorem monitorForm_encodeMicro (act : BitVec 2) (f : MicroFields) :
    MonitorForm (encodeMicro act f) ↔ (instrOfAct act f).bmWord = true := by
  rw [instrOfAct_bmWord, bmOk_iff]
  simp only [MonitorForm, encodeMicro_fields, waitBits_toNat_le_two, dirOpBits_eq_zero, ctrlBits_eq_zero]
  tauto

theorem responderForm_encodeMicro (act : BitVec 2) (f : MicroFields) :
    ResponderForm (encodeMicro act f) ↔ (instrOfAct act f).brWord = true := by
  rw [instrOfAct_brWord, brOk_iff, ctrlFieldOk_iff]
  simp only [ResponderForm, encodeMicro_fields, waitBits_toNat_responder, ctrlBits_eq_zero, ctrlBits_eq_three, ne_eq]
  have hdir := dirOpBits_ne_three f.dir
  tauto

/-- Where a condition on bits leaves out the reserved words and says of an encoded word that its instruction is legal, it says which
words the sequencer decodes. -/
theorem decodes_iff_of_encodeMicro {x : Sequencer} {form : Word16 → Prop} (hfree : ∀ w, form w → Unreserved w)
    (hform : ∀ act f, form (encodeMicro act f) ↔ (instrOfAct act f).legalFor x = true) (w : Word16) :
    (∃ i, decodeFor x w = .instr i) ↔ form w := by
  constructor
  · rintro ⟨i, hi⟩
    obtain ⟨rfl, hl⟩ := (decodeFor_eq_instr_iff x w i).1 hi
    obtain ⟨act, f, rfl⟩ := exists_instrOfAct hl
    rw [encode_instrOfAct]
    exact (hform act f).2 hl
  · intro hw
    obtain ⟨act, f, rfl⟩ := exists_encodeMicro (hfree w hw).wait (hfree w hw).dir
    exact ⟨_, (decodeFor_eq_instr_iff x _ _).2 ⟨encode_instrOfAct act f, (hform act f).1 hw⟩⟩

/-- A Bus Monitor decodes exactly the words of its form. -/
theorem decodes_iff_monitorForm {x : Sequencer} (hx : x ≠ .br) (w : Word16) :
    (∃ i, decodeFor x w = .instr i) ↔ MonitorForm w := by
  refine decodes_iff_of_encodeMicro (fun _ => MonitorForm.unreserved) (fun act f => ?_) w
  rw [monitorForm_encodeMicro]
  cases x with
  | br => exact absurd rfl hx
  | bm0 | bm1 => rfl

/-- The Bus Responder decodes exactly the words of its form. -/
theorem decodes_iff_responderForm (w : Word16) : (∃ i, decodeFor .br w = .instr i) ↔ ResponderForm w :=
  decodes_iff_of_encodeMicro (x := .br) (fun _ => ResponderForm.unreserved) responderForm_encodeMicro w

/-- Every word of the fixed Bus Monitor program is well-formed in both monitors (40_bus_monitor.md R161). -/
theorem bmProgram_wellFormed : ∀ w ∈ bmProgram, ∃ i, decodeFor .bm0 w = .instr i ∧ decodeFor .bm1 w = .instr i := by
  intro w hw
  obtain ⟨u, hu⟩ := List.mem_iff_getElem?.1 hw
  obtain ⟨hlt, -⟩ := List.getElem?_eq_some_iff.1 hu
  obtain ⟨w0, hw0, h0⟩ := bmProgram_decodes .bm0 nofun u hlt
  obtain ⟨w1, hw1, h1⟩ := bmProgram_decodes .bm1 nofun u hlt
  obtain rfl := Option.some_inj.1 (hu.symm.trans hw0)
  obtain rfl := Option.some_inj.1 (hu.symm.trans hw1)
  exact ⟨_, h0, h1⟩

/-- Every word of the fixed Bus Responder program is well-formed, for every SETTLE_CYCLES (41_bus_responder.md R181). -/
theorem brProgram_wellFormed (n : BitVec 6) : ∀ w ∈ brProgram n, ∃ i, decodeFor .br w = .instr i := by
  intro w hw
  obtain ⟨u, hu⟩ := List.mem_iff_getElem?.1 hw
  obtain ⟨hlt, -⟩ := List.getElem?_eq_some_iff.1 hu
  obtain ⟨w', hw', h⟩ := brProgram_decodes n u hlt
  obtain rfl := Option.some_inj.1 (hu.symm.trans hw')
  exact ⟨_, h⟩

/-- Settles O3: each sequencer's form by bits, and the fixed programs word by word. -/
theorem microWordWellFormedExactly : Obligations.MicroWordWellFormedExactly :=
  ⟨fun _ w hx => decodes_iff_monitorForm hx w, decodes_iff_responderForm, bmProgram_wellFormed, brProgram_wellFormed⟩

/-- The word holds an encoding that R138 reserves, or an ACT that is not legal in sequencer x. -/
def ReservedFor (x : Sequencer) (w : Word16) : Prop :=
  5 ≤ (w.extractLsb' 13 3).toNat ∨ w.extractLsb' 11 2 = 3 ∨ (w.getLsbD 10 = true ∧ w.extractLsb' 8 2 = 3) ∨
    (w.getLsbD 10 = false ∧ w.extractLsb' 8 2 ≠ 0) ∨ (x = .br ∧ w.extractLsb' 6 2 = 1) ∨
    (x ≠ .br ∧ 2 ≤ (w.extractLsb' 6 2).toNat)

theorem Unreserved.not_reservedFor {x : Sequencer} {w : Word16} (h : Unreserved w) (hbr : x = .br → w.extractLsb' 6 2 ≠ 1)
    (hbm : x ≠ .br → (w.extractLsb' 6 2).toNat ≤ 1) : ¬ ReservedFor x w := by
  rintro (hwait | hdir | ⟨hcw, hlevel⟩ | ⟨hcw, hempty⟩ | ⟨hx, hact⟩ | ⟨hx, hact⟩)
  · exact absurd h.wait (by omega)
  · exact h.dir hdir
  · exact h.level hcw hlevel
  · exact hempty (h.empty hcw)
  · exact hbr hx hact
  · exact absurd (hbm hx) (by omega)

/-- A word that a sequencer decodes holds nothing that R138 names. -/
theorem not_reservedFor_of_decodes {x : Sequencer} {w : Word16} {i : Instr} (h : decodeFor x w = .instr i) :
    ¬ ReservedFor x w := by
  by_cases hx : x = .br
  · subst hx
    have hform := (decodes_iff_responderForm w).1 ⟨i, h⟩
    have hfree := hform.unreserved
    obtain ⟨-, -, -, -, hact⟩ := hform
    exact hfree.not_reservedFor (fun _ => hact) (fun hx => absurd rfl hx)
  · have hform := (decodes_iff_monitorForm hx w).1 ⟨i, h⟩
    have hfree := hform.unreserved
    obtain ⟨-, -, -, -, hact⟩ := hform
    exact hfree.not_reservedFor (fun hbr => absurd hbr hx) (fun _ => hact)

/-- The decoder of sequencer x refuses such a word. -/
theorem decodeFor_refused_of_reserved {x : Sequencer} {w : Word16} (h : ReservedFor x w) : ∃ e, decodeFor x w = .refused e := by
  cases hd : decodeFor x w with
  | instr i => exact absurd h (not_reservedFor_of_decodes hd)
  | refused e => exact ⟨e, rfl⟩

/-- A sequencer that fetches a word its decoder refuses is refused (log 15). -/
theorem seqTurn_refused {x : Sequencer} {w : Word16} {e : DecodeError} {s : State} (hw : fetchWord x s = some w)
    (he : decodeFor x w = .refused e) : seqTurn x s = .refused .illFormedMicroWord := by
  simp only [seqTurn, hw, he]

/-- Under the bus invariant a Bus Monitor is at one of the three words of its fixed program (10_state.md R34, R44). -/
theorem monitor_of_busInv {x : Sequencer} {s : State} (h : BusInv s) (hx : x ≠ .br) : progOf x s = bmProgram ∧ upcOf x s < 3 := by
  cases x with
  | br => exact absurd rfl hx
  | bm0 => exact ⟨h.bmProg, h.monitor0.1⟩
  | bm1 => exact ⟨h.bmProg, h.monitor1.1⟩

/-- Under the bus invariant every sequencer fetches a word that it decodes. -/
theorem fetch_decodes_of_busInv {s : State} (h : BusInv s) (x : Sequencer) :
    ∃ w i, fetchWord x s = some w ∧ decodeFor x w = .instr i := by
  by_cases hx : x = .br
  · subst hx
    obtain ⟨w, hw, hi⟩ := brProgram_decodes s.params.settleCycles s.bus.brUpc.toNat s.bus.brUpc.isLt
    exact ⟨w, _, by rw [fetchWord, progOf, h.brProg]; exact hw, hi⟩
  · obtain ⟨hprog, hupc⟩ := monitor_of_busInv h hx
    obtain ⟨w, hw, hi⟩ := bmProgram_decodes x hx (upcOf x s) hupc
    exact ⟨w, _, by rw [fetchWord, hprog]; exact hw, hi⟩

/-- Settles O4: no form of bits admits such a word, and that the sequencer is refused at the fetch is the model's choice (log 15). -/
theorem reservedMicroWordsRefused : Obligations.ReservedMicroWordsRefused := by
  refine ⟨fun x w h => ?_, fun s x hi => fetch_decodes_of_busInv hi x⟩
  obtain ⟨e, he⟩ := decodeFor_refused_of_reserved h
  exact ⟨⟨e, he⟩, fun s hw => seqTurn_refused hw he⟩

/-! ## The tables -/

/-- Settles O5: each word is the encoding of the instruction that the tables of R140 and R143 give it, which is legal there. -/
theorem sampleWordsDecode : Obligations.SampleWordsDecode := by
  refine ⟨?_, ?_, ?_, ?_, ?_, ?_, ?_, ?_, ?_, ?_, ?_, decodeCommand_encode (i := .nop) rfl,
    decodeCommand_encode (i := .launch .direct) rfl, decodeCommand_encode (i := .launch .delay) rfl,
    decodeCommand_encode (i := .handoff) rfl⟩ <;>
  exact (decodeFor_eq_instr_iff _ _ _).2 ⟨rfl, rfl⟩

/-- Settles O6, code by code. -/
theorem modeCodeRoundTrip : Obligations.ModeCodeRoundTrip := by
  refine ⟨rfl, rfl, rfl, fun c h0 h1 => ?_, rfl, rfl, rfl, fun m => ?_⟩
  · simp only [decodeMode, if_neg h0, if_neg h1]
  · cases m <;> rfl

theorem waitReady_pinHigh (x : Sequencer) (s : State) : waitReady x .pinHigh s = true ↔ csLevel x s = some .high :=
  beq_iff_eq

theorem waitReady_pinLow (x : Sequencer) (s : State) : waitReady x .pinLow s = true ↔ csLevel x s = some .low :=
  beq_iff_eq

theorem waitReady_reply (x : Sequencer) (s : State) : waitReady x .reply s = true ↔ s.bus.replyFifo ≠ [] := by
  simp [waitReady]

/-- SIG is the one wait-condition whose passing changes the state (30_encoding.md R133). -/
theorem waitEffect_of_ne_sig {w : Wait} (h : w ≠ .sig) (s : State) : waitEffect w s = s := by
  cases w with
  | sig => exact absurd rfl h
  | none | pinHigh | pinLow | reply => rfl

/-- A micro-word is the instruction of an ACT and the word's fields. -/
theorem instrOfAct_of_microFields {i : Instr} {f : MicroFields} (h : microFields i f) : ∃ act, i = instrOfAct act f := by
  rcases h with rfl | rfl | rfl | rfl
  · exact ⟨0, rfl⟩
  · exact ⟨1, rfl⟩
  · exact ⟨2, rfl⟩
  · exact ⟨3, rfl⟩

theorem wait_of_brWord {i : Instr} {f : MicroFields} (h : microFields i f) (hl : i.brWord = true) :
    f.wait = .none ∨ f.wait = .sig ∨ f.wait = .reply := by
  obtain ⟨act, rfl⟩ := instrOfAct_of_microFields h
  exact ((brOk_iff f).1 ((instrOfAct_brWord act f).1 hl).2).1

theorem wait_of_bmWord {i : Instr} {f : MicroFields} (h : microFields i f) (hl : i.bmWord = true) :
    f.wait = .none ∨ f.wait = .pinHigh ∨ f.wait = .pinLow := by
  obtain ⟨act, rfl⟩ := instrOfAct_of_microFields h
  exact ((bmOk_iff f).1 ((instrOfAct_bmWord act f).1 hl).2).1

/-- Settles O8, wait-condition by wait-condition. -/
theorem waitConditionTable : Obligations.WaitConditionTable := by
  intro s
  refine ⟨fun _ => rfl, (waitReady_pinHigh .bm0 s).trans Option.some_inj, (waitReady_pinLow .bm0 s).trans Option.some_inj,
    (waitReady_pinHigh .bm1 s).trans Option.some_inj, (waitReady_pinLow .bm1 s).trans Option.some_inj, fun _ => Iff.rfl,
    fun x => waitReady_reply x s, rfl, fun w hw => waitEffect_of_ne_sig hw s, fun i f => wait_of_brWord,
    fun i f x hx hf hl => ?_⟩
  cases x with
  | br => exact absurd rfl hx
  | bm0 | bm1 => exact wait_of_bmWord hf hl

end Sys2Proof
end

section
/-! Under the invariant and the launch premises no step faults or is refused (spec/30_encoding.md R138, spec/42_staging.md R241,
spec/60_exceptions.md R334): the sequencers, the copy step, the flash calls of a chunk step, the commands, one step. -/

namespace Sys2Proof.Machine

open Sys2Proof

/-! ## Sequencers and commands -/

/-- A micro-word instruction legal in the active sequencer answers a next state: a stall is one too. -/
theorem exec_completes_of_legal {i : Instr} {s : State} (hl : i.legalFor s.active = true) : ∃ t, exec i s = .next t := by
  cases i with
  | step f | raise f | capture f | drive f => exact ⟨_, if_pos hl⟩
  | nop | launch m | handoff => exact ⟨_, rfl⟩

/-- A command answers a next state in every Mode Controller state (43_mode_controller.md R274). -/
theorem exec_completes_of_isCommand {i : Instr} (hc : i.isCommand = true) (s : State) : ∃ t, exec i s = .next t := by
  cases i with
  | step f | raise f | capture f | drive f => cases hc
  | nop | launch m | handoff => exact ⟨_, rfl⟩

theorem seqTurn_completes {s : State} (h : BusInv s) (x : Sequencer) : ∃ t, seqTurn x s = .next t := by
  obtain ⟨w, i, hw, hi⟩ := fetch_decodes_of_busInv h x
  rw [seqTurn_eq hw hi]
  exact exec_completes_of_legal (s := { s with active := x }) (decodeFor_legal hi)

theorem writeCmd_completes (w : Word16) (s : State) : ∃ t, writeCmd w s = .next t := by
  unfold writeCmd
  split
  · exact exec_completes_of_isCommand (decodeCommand_isCommand ‹_›) s
  · exact ⟨_, rfl⟩

theorem writeCsr_completes (n : BitVec 4) (w : Word16) (s : State) : ∃ t, writeCsr n w s = .next t := by
  unfold writeCsr
  split
  · exact writeCmd_completes w s
  · exact ⟨_, rfl⟩

/-- A name of 1 to FNAME_MAX bytes is taken (10_state.md R66). -/
theorem writeFname_completes {name : List Byte} {s : State} (h : actionInDomain s.params (.writeFname name) = true) :
    ∃ t, writeFname name s = .next t :=
  ⟨_, if_pos (of_decide_eq_true h)⟩

/-! ## The flash geometry (00_scope.md R10) -/

/-- What the parameters' constraints say of pages, sectors and the staging region. -/
structure FlashGeometry (p : Params) : Prop where
  page_pos        : 0 < p.page
  sector_pos      : 0 < p.sector
  page_dvd        : p.page ∣ p.sector
  sector_dvd      : p.sector ∣ p.flashSize
  stage_in_flash  : p.stageOff + stageSize ≤ p.flashSize

theorem Params.wf_geometry {p : Params} (h : p.wf = true) : FlashGeometry p := by
  simp only [Params.wf, Bool.and_eq_true, decide_eq_true_eq, and_assoc] at h
  obtain ⟨-, -, hpage, hle, hps, hsf, -, hstage, -⟩ := h
  exact ⟨by omega, by omega, Nat.dvd_of_mod_eq_zero hps, Nat.dvd_of_mod_eq_zero hsf, hstage⟩

/-- A sector that begins inside FLASH ends inside it. -/
theorem FlashGeometry.sector_fits {p : Params} (g : FlashGeometry p) {o : Nat} (ho : o % p.sector = 0) (hlt : o < p.flashSize) :
    o + p.sector ≤ p.flashSize := by
  obtain ⟨a, rfl⟩ := Nat.dvd_of_mod_eq_zero ho
  obtain ⟨b, hb⟩ := g.sector_dvd
  rw [hb] at hlt ⊢
  have hab : a < b := Nat.lt_of_mul_lt_mul_left hlt
  calc p.sector * a + p.sector = p.sector * (a + 1) := rfl
    _ ≤ p.sector * b := Nat.mul_le_mul_left _ hab

theorem sectorOf_of_aligned {p : Params} {o : Nat} (ho : o % p.sector = 0) : sectorOf p o = o :=
  Nat.div_mul_cancel (Nat.dvd_of_mod_eq_zero ho)

/-- The padded size is the number of pages begun, in bytes (42_staging.md R239). -/
theorem paddedSize_eq (p : Params) (n : Nat) : paddedSize p n = p.page * (n ⌈/⌉ p.page) := by
  rw [Nat.ceilDiv_eq_add_pred_div, Nat.mul_comm]
  rfl

theorem page_dvd_paddedSize (p : Params) (n : Nat) : p.page ∣ paddedSize p n :=
  paddedSize_eq p n ▸ Nat.dvd_mul_right _ _

theorem FlashGeometry.le_paddedSize {p : Params} (g : FlashGeometry p) (n : Nat) : n ≤ paddedSize p n :=
  paddedSize_eq p n ▸ le_smul_ceilDiv g.page_pos

/-- Padding stays inside the sector, since SECTOR is a multiple of PAGE. -/
theorem FlashGeometry.paddedSize_le_sector {p : Params} (g : FlashGeometry p) {n : Nat} (h : n ≤ p.sector) :
    paddedSize p n ≤ p.sector := by
  obtain ⟨k, hk⟩ := g.page_dvd
  rw [hk] at h ⊢
  rw [paddedSize_eq]
  exact Nat.mul_le_mul_left _ ((ceilDiv_le_iff_le_mul g.page_pos).2 h)

/-! ## The Flash Stager -/

@[simp] theorem length_swap16 (bytes : List Byte) : (swap16 bytes).length = bytes.length := by
  induction bytes using swap16.induct with
  | case1 a b rest ih => simp [swap16, ih]
  | case2 a => rfl
  | case3 => rfl

theorem FlashGeometry.length_padChunk {p : Params} (g : FlashGeometry p) (bytes : List Byte) :
    (padChunk p bytes).length = paddedSize p bytes.length := by
  have hle := g.le_paddedSize bytes.length
  rw [padChunk, List.length_append, List.length_replicate]
  omega

/-- FlashErase of a sector of FLASH succeeds, and the sector is then one erased since its last program (20_memory.md R93). -/
theorem flashErase_completes {o : Nat} {s : State} (ho : o % s.params.sector = 0)
    (hfits : o + s.params.sector ≤ s.params.flashSize) :
    ∃ t, flashErase o s = some t ∧ t.params = s.params ∧ o ∈ t.flashBlank := by
  refine ⟨_, if_pos ⟨ho, hfits⟩, rfl, ?_⟩
  by_cases hmem : o ∈ s.flashBlank <;> simp [hmem]

/-- A padded chunk of at most a sector can be programmed at the start of an erased sector (20_memory.md R93, 42_staging.md R241). -/
theorem flashProgram_completes {o : Nat} {bytes : List Byte} {s : State} (g : FlashGeometry s.params)
    (ho : o % s.params.sector = 0) (hblank : o ∈ s.flashBlank) (hne : 0 < bytes.length)
    (hlen : bytes.length ≤ s.params.sector) :
    ∃ t, flashProgram o (swap16 (padChunk s.params bytes)) s = some t := by
  have hlength : (swap16 (padChunk s.params bytes)).length = paddedSize s.params bytes.length := by
    rw [length_swap16, g.length_padChunk]
  have hpos : 0 < paddedSize s.params bytes.length := hne.trans_le (g.le_paddedSize _)
  have hsector : sectorOf s.params o = o := sectorOf_of_aligned ho
  refine ⟨_, if_pos ⟨?_, ?_, ?_, ?_, ?_⟩⟩
  · exact Nat.mod_eq_zero_of_dvd (g.page_dvd.trans (Nat.dvd_of_mod_eq_zero ho))
  · exact List.ne_nil_of_length_pos (hlength ▸ hpos)
  · rw [hlength]
    exact Nat.mod_eq_zero_of_dvd (page_dvd_paddedSize _ _)
  · rw [hlength, hsector]
    exact Nat.add_le_add_left (g.paddedSize_le_sector hlen) o
  · rwa [hsector]

/-- With the cursor at a sector of FLASH the flash calls of a chunk meet their preconditions. -/
theorem fsProgramChunk_completes {n : Nat} {bytes : List Byte} {s : State} (g : FlashGeometry s.params)
    (ho : s.fs.off.toNat % s.params.sector = 0) (hin : s.fs.off.toNat < s.params.flashSize) (hne : 0 < bytes.length)
    (hlen : bytes.length ≤ s.params.sector) : ∃ t, fsProgramChunk n bytes s = .next t := by
  obtain ⟨t, ht, hp, hblank⟩ := flashErase_completes ho (g.sector_fits ho hin)
  obtain ⟨u, hu⟩ := flashProgram_completes (s := t) (bytes := bytes) (hp ▸ g) (hp ▸ ho) hblank hne (hp ▸ hlen)
  rw [hp] at hu
  simp only [fsProgramChunk, ht, hu]
  split <;> exact ⟨_, rfl⟩

/-- A read inside the file gives as many bytes as were asked for (20_memory.md R95). -/
theorem stRead_length {h : Handle} {pos n : Nat} {s : State} {file bytes : List Byte}
    (hfile : lookupFile h.name s.storage = some file) (hn : pos + n ≤ file.length) (hr : stRead h pos n s = some bytes) :
    bytes.length = n := by
  unfold stRead at hr
  split at hr
  · rw [hfile, Option.map_some, Option.some_inj] at hr
    rw [← hr, List.length_take, List.length_drop]
    omega
  · cases hr

theorem fsChunkStep_completes {h : Handle} {s : State} (g : FlashGeometry s.params) (hi : StagerInv s)
    (hbusy : s.fs.busy = true) (hh : s.fs.handle = some h) : ∃ t, fsChunkStep h s = .next t := by
  obtain ⟨⟨file, hfile, hlen⟩, hpos, hcursor, -, hroom⟩ := hi.chunk hbusy h hh
  unfold fsChunkStep
  split
  · exact ⟨_, rfl⟩
  · rename_i hne
    have hlt : s.fs.pos.toNat < s.fs.len.toNat := Nat.lt_of_le_of_ne hpos fun he => hne (BitVec.eq_of_toNat_eq he)
    have hstage := g.stage_in_flash
    have hsector := g.sector_pos
    split
    · exact ⟨_, rfl⟩
    · rename_i bytes hr
      have hbytes : bytes.length = chunkSize s := stRead_length hfile (by unfold chunkSize; omega) hr
      unfold chunkSize at hbytes
      exact fsProgramChunk_completes g (hcursor.resolve_right hne) (by omega) (by omega) (by omega)

theorem fsStep_completes {s : State} (g : FlashGeometry s.params) (hi : StagerInv s) : ∃ t, fsStep s = .next t := by
  unfold fsStep
  split
  · exact ⟨_, rfl⟩
  · rename_i hbusy
    split
    · exact ⟨_, rfl⟩
    · exact fsChunkStep_completes g hi (by simpa using hbusy) ‹_›

/-! ## The RAM Loader -/

theorem loadByte_comm {s : State} {i : Nat} {b : Byte} (hsrc : s.rl.src = .comm) (hb : s.params.commImage[i]? = some b) :
    loadByte s i = .ok b := by
  simp only [loadByte, hsrc, hb]

theorem loadByte_rom {s : State} {i : Nat} (hsrc : s.rl.src = .rom) (hin : s.params.stageOff + i < s.params.flashSize) :
    loadByte s i = .ok (flashByte s (s.params.stageOff + i)) := by
  simp only [loadByte, hsrc, if_pos hin]

/-- Every byte of a load is there to read: COMM_FW_IMAGE has RL_LEN bytes, and the staging region lies in FLASH (42_staging.md R221). -/
theorem loadByte_ok {s : State} {i : Nat} (g : FlashGeometry s.params) (h : i < loadLength s.params s.rl.src) :
    ∃ b, loadByte s i = .ok b := by
  cases hsrc : s.rl.src with
  | comm =>
    rw [hsrc] at h
    exact ⟨_, loadByte_comm hsrc (List.getElem?_eq_getElem h)⟩
  | rom =>
    rw [hsrc] at h
    exact ⟨_, loadByte_rom hsrc ((Nat.add_lt_add_left h _).trans_le g.stage_in_flash)⟩

theorem rlCopyStep_completes {s : State} (g : FlashGeometry s.params)
    (h : s.rl.idx.toNat < loadLength s.params s.rl.src) : ∃ t, rlCopyStep s = .next t := by
  obtain ⟨b, hb⟩ := loadByte_ok g h
  simp only [rlCopyStep, hb]
  split <;> exact ⟨_, rfl⟩

theorem rlStep_completes {s : State} (g : FlashGeometry s.params) (hi : LoadInv s) : ∃ t, rlStep s = .next t := by
  unfold rlStep
  split
  · exact ⟨_, rfl⟩
  · rename_i hbusy
    obtain ⟨hlen, -⟩ := hi.bounds (.inl (by simpa using hbusy))
    split
    · exact rlCopyStep_completes g (hlen ▸ ‹_›)
    · split <;> exact ⟨_, rfl⟩

/-! ## One step -/

/-- Every action that the environment can take, and every agent's step, answers a next state. -/
theorem runAction_completes {a : Action} {s : State} (hbus : BusInv s) (hload : LoadInv s) (hstager : StagerInv s)
    (g : FlashGeometry s.params) (hd : actionInDomain s.params a = true) : ∃ t, runAction a s = .next t := by
  cases a with
  | seq x => exact seqTurn_completes hbus x
  | rl => exact rlStep_completes g hload
  | fs => exact fsStep_completes g hstager
  | writeFname name => exact writeFname_completes hd
  | writeCsr n w => exact writeCsr_completes n w s
  | lu | mc | db | hostAssert k w | hostSample | hostDeassert k | setButton l | readFname | readCsr n | deviceReset =>
    exact ⟨_, rfl⟩

/-- Taking a turn touches nothing of the load. -/
theorem LoadInv.after_takeTurn {s : State} (h : LoadInv s) : LoadInv (takeTurn s) :=
  ⟨h.bounds, h.copied, h.whole, h.source⟩

/-- Taking a turn touches nothing of the flash request. -/
theorem StagerInv.after_takeTurn {s : State} (h : StagerInv s) : StagerInv (takeTurn s) := ⟨h.start, h.chunk⟩

/-- Settles O57: the invariant's parts give each agent's step what it needs. -/
theorem everyStepCompletesUnderTheInvariant : Obligations.EveryStepCompletesUnderTheInvariant := by
  intro s hi hp hd
  obtain ⟨hwf, -⟩ := (Bool.and_eq_true _ _).mp hp
  rw [step_eq]
  exact runAction_completes hi.bus.after_takeTurn (hi.load hp).after_takeTurn (hi.stager hp).after_takeTurn
    (Params.wf_geometry hwf) hd

end Sys2Proof.Machine
end

section
/-! One micro-step of a sequencer (spec/40_bus_monitor.md R160): how it ends, what the word's fields leave in the bus engine, a hold cycle
as the end of a step, and when a word stalls; then the statements about `step`, `raise`, stalls, hold cycles and a turn. -/

namespace Sys2Proof.Machine

open Sys2Proof

/-! ## The end of a step -/

theorem upcOf_setUpc_other {x y : Sequencer} (h : y ≠ x) (n : Nat) (s : State) : upcOf y (setUpc x n s) = upcOf y s :=
  match x, y, h with
  | .bm0, .bm1, _ | .bm0, .br, _ | .bm1, .bm0, _ | .bm1, .br, _ | .br, .bm0, _ | .br, .bm1, _ => rfl

theorem holdOf_setHold_other {x y : Sequencer} (h : y ≠ x) (n : BitVec 6) (s : State) :
    holdOf y (setHold x n s) = holdOf y s :=
  match x, y, h with
  | .bm0, .bm1, _ | .bm0, .br, _ | .bm1, .bm0, _ | .bm1, .br, _ | .br, .bm0, _ | .br, .bm1, _ => rfl

/-- A UPC register holds every address of its sequencer's program (10_state.md R34, R35, R44). -/
theorem upcOf_setUpc_nextUpc {s : State} (hp : programsSized s) (x : Sequencer) :
    upcOf x (setUpc x (nextUpc x s) s) = (upcOf x s + 1) % (progOf x s).length := by
  obtain ⟨hbm, hbr⟩ := hp
  rw [upcOf_setUpc]
  apply Nat.mod_eq_of_lt
  cases x <;> simp only [nextUpc, progOf, hbm, hbr] <;> omega

/-- The end of a step is the one the statements speak of (40_bus_monitor.md R160). -/
theorem endsStep_advance {x : Sequencer} {s : State} (hp : programsSized s) (free : holdOf x s = 0) (h : BitVec 6) :
    endsStep x h s (advance x h s) := by
  unfold advance endsStep
  split
  · exact ⟨⟨upcOf_setUpc_nextUpc hp x, (holdOf_setUpc x x _ s).trans free⟩,
      fun y hy => ⟨upcOf_setUpc_other hy _ s, holdOf_setUpc y x _ s⟩⟩
  · exact ⟨⟨upcOf_setHold x x h s, holdOf_setHold x h s⟩,
      fun y hy => ⟨upcOf_setHold y x h s, holdOf_setHold_other hy h s⟩⟩

/-- A hold cycle ends a step with one cycle less to hold, as if no hold were left (40_bus_monitor.md R160). -/
theorem holdCycle_eq_advance (x : Sequencer) (s : State) : holdCycle x s = advance x (holdOf x s - 1) (setHold x 0 s) := by
  unfold holdCycle advance
  split
  case isTrue h =>
    rw [h]
    cases x <;> rfl
  case isFalse h => cases x <;> rfl

/-- So a hold cycle counts down, and the UPC advances when the count reaches 0; the other sequencers stand still. -/
theorem endsStep_holdCycle {s : State} (hp : programsSized s) (x : Sequencer) :
    endsStep x (holdOf x s - 1) s (holdCycle x s) := by
  have hprog : progOf x (setHold x 0 s) = progOf x s := by cases x <;> rfl
  obtain ⟨hown, hother⟩ := endsStep_advance (x := x) (s := setHold x 0 s) (by simpa [programsSized] using hp)
    (holdOf_setHold x 0 s) (holdOf x s - 1)
  rw [upcOf_setHold, hprog] at hown
  rw [holdCycle_eq_advance]
  refine ⟨hown, fun y hy => ?_⟩
  rw [(hother y hy).1, (hother y hy).2]
  exact ⟨upcOf_setHold y x 0 s, holdOf_setHold_other hy 0 s⟩

/-! ## The effects of a word's fields -/

/-- What the WAIT, DIR, CW and CTRL fields of a word that proceeds leave in the bus engine (30_encoding.md R133 to R135). -/
def fieldEffects (f : MicroFields) (s : State) : State := { s with
  bus := { s.bus with
    sig := if f.wait = .sig then false else s.bus.sig
    dir := dirAfter f.dir s.bus.dir
    ctrl := ctrlAfter f s.bus.ctrl } }

theorem fieldEffects_eq (f : MicroFields) (s : State) :
    ctrlEffect f.cw f.ctrl (dirEffect f.dir (waitEffect f.wait s)) = fieldEffects f s := by
  obtain ⟨w, d, cw, c, h⟩ := f
  cases w <;> cases d <;> cases cw <;> rfl

/-- A word that is neither stalled nor held takes effect and ends its step (40_bus_monitor.md R160). -/
theorem microStep_proceeds {x : Sequencer} {f : MicroFields} {ready : State → Bool} {act : State → State → State} {s : State}
    (ha : s.bus.armed = true) (free : holdOf x s = 0) (hw : waitReady x f.wait s = true) (hr : ready s = true) :
    microStep x f ready act s = advance x f.hold (act s (fieldEffects f s)) := by
  rw [← fieldEffects_eq]
  simp [microStep, ha, free, hw, hr]

theorem microStep_held {x : Sequencer} {f : MicroFields} {ready : State → Bool} {act : State → State → State} {s : State}
    (ha : s.bus.armed = true) (held : holdOf x s ≠ 0) : microStep x f ready act s = holdCycle x s := by
  rw [microStep, if_neg (by simp [ha]), if_pos held]

/-- A disarmed sequencer stalls, and so does a word with its wait-condition or its action not ready (40_bus_monitor.md R160). -/
theorem microStep_stalls {x : Sequencer} {f : MicroFields} {ready : State → Bool} {act : State → State → State} {s : State}
    (h : s.bus.armed = false ∨ (holdOf x s = 0 ∧ (waitReady x f.wait s && ready s) = false)) :
    microStep x f ready act s = s := by
  rcases h with ha | ⟨free, hw⟩
  · simp [microStep, ha]
  · simp [microStep, free, hw]

/-! ## The micro-word instructions -/

/-- The action of the micro-word does not stall (41_bus_responder.md R188, R192). -/
def actionReady (i : Instr) (s : State) : Bool :=
  match i with
  | .capture _ => !fifoFull s s.bus.addrFifo
  | .drive _ => !s.bus.replyFifo.isEmpty
  | .step _ | .raise _ | .nop | .launch _ | .handoff => true

/-- A micro-word legal for the active sequencer is a micro-step of it, ready when its action is. -/
theorem exec_eq_microStep {i : Instr} {f : MicroFields} {s : State} (hi : microFields i f)
    (hl : i.legalFor s.active = true) : ∃ act, exec i s = .next (microStep s.active f (actionReady i) act s) := by
  rcases hi with rfl | rfl | rfl | rfl <;> exact ⟨_, if_pos hl⟩

/-- A legal micro-word leaves everything outside the bus engine as it is, every byte of both memories included. -/
theorem onlyBusChanged_of_legal {i : Instr} {s t : State} (hl : i.legalFor s.active = true) (h : exec i s = .next t) :
    onlyBusChanged s t := by
  have hrest := exec_frame_of_legal hl h
  refine ⟨hrest, fun a => ramByte_congr s t a ?_ ?_, fun o => flashByte_congr s t o ?_⟩ <;> rw [hrest]

/-- Only a Bus Monitor runs a `raise` (30_encoding.md R137). -/
theorem bmWord_of_legal_raise {x : Sequencer} {f : MicroFields} (h : (Instr.raise f).legalFor x = true) :
    (Instr.raise f).bmWord = true := by
  cases x with
  | bm0 | bm1 => exact h
  | br => cases h

/-- Settles O9: the word proceeds, its fields take effect, and the end of the step touches UPC and HOLD alone. -/
theorem stepInstructionResultAndFrame : Obligations.StepInstructionResultAndFrame := by
  intro f s ⟨hl, ha, free, hp⟩ hw
  have hexec : exec (.step f) s = .next (advance s.active f.hold (fieldEffects f s)) :=
    (if_pos hl).trans (congrArg _ (microStep_proceeds ha free hw rfl))
  obtain ⟨-, harmed, hhi, hsig, hcap, hdout, hdir, hctrl, haddr, hreply⟩ :=
    advance_frame s.active f.hold (fieldEffects f s)
  exact ⟨_, hexec, hsig, hdir, hctrl, endsStep_advance (s := fieldEffects f s) hp free f.hold, ⟨harmed, hhi⟩, hcap, hdout,
    haddr, hreply, onlyBusChanged_of_legal hl hexec⟩

/-- Settles O10: as for `step`, with SIG raised after the fields' effects; a Bus Monitor's word leaves the pins alone. -/
theorem raiseInstructionResultAndFrame : Obligations.RaiseInstructionResultAndFrame := by
  intro f s ⟨hl, ha, free, hp⟩ hw
  have hexec : exec (.raise f) s = .next (advance s.active f.hold (raiseSig (fieldEffects f s))) :=
    (if_pos hl).trans (congrArg _ (microStep_proceeds ha free hw rfl))
  obtain ⟨-, harmed, hhi, hsig, -, -, -, -, haddr, hreply⟩ :=
    advance_frame s.active f.hold (raiseSig (fieldEffects f s))
  have hpins := exec_pins_of_bmWord (bmWord_of_legal_raise hl) hexec
  simp only [pinsOf, Prod.mk.injEq] at hpins
  obtain ⟨hdir, hctrl, hcap, hdout⟩ := hpins
  exact ⟨_, hexec, hsig, endsStep_advance (s := raiseSig (fieldEffects f s)) hp free f.hold, hdir, hctrl, ⟨harmed, hhi⟩,
    hcap, hdout, haddr, hreply, onlyBusChanged_of_legal hl hexec⟩

/-- Settles O13: the pair is disarmed, or the wait-condition or the word's own action is not ready. -/
theorem stalledMicroWordChangesNothing : Obligations.StalledMicroWordChangesNothing := by
  intro i f s hi hl hstall
  obtain ⟨act, hexec⟩ := exec_eq_microStep hi hl
  rw [hexec, microStep_stalls]
  refine hstall.imp_right fun ⟨free, hnot⟩ => ⟨free, ?_⟩
  rcases hnot with hw | ⟨rfl, hfull⟩ | ⟨rfl, hempty⟩
  · rw [hw, Bool.false_and]
  · simp [actionReady, fifoFull, hfull]
  · simp [actionReady, hempty]

/-- Settles O14: a hold cycle is the end of a step whose HOLD field is one less than the count. -/
theorem holdCycleOnlyCountsDown : Obligations.HoldCycleOnlyCountsDown := by
  intro i f s hi hl ha held hp
  obtain ⟨act, hexec⟩ := exec_eq_microStep hi hl
  rw [microStep_held ha held] at hexec
  obtain ⟨-, harmed, hhi, hsig, hcap, hdout, hdir, hctrl, haddr, hreply⟩ := holdCycle_frame s.active s
  obtain ⟨hown, hother⟩ := endsStep_holdCycle hp s.active
  have hlast : holdOf s.active s - 1 = 0 ↔ (holdOf s.active s).toNat = 1 := by bv_omega
  simp only [hlast] at hown
  refine ⟨_, hexec, ?_, ?_, hother, hsig, hdir, hctrl, ⟨harmed, hhi⟩, hcap, hdout, haddr, hreply,
    onlyBusChanged_of_legal hl hexec⟩
  · split at hown <;> rw [hown.2] <;> bv_omega
  · split at hown
    case isTrue last => rw [if_pos last, hown.1]
    case isFalse more => rw [if_neg more, hown.1]

/-! ## A turn -/

/-- A write to CMD executes the command its word decodes to (43_mode_controller.md R273). -/
theorem writeCsr_command {w : Word16} {i : Instr} {s : State} (hi : decodeCommand w = .instr i) :
    writeCsr 3 w s = exec i s := by
  rw [writeCsr, if_pos rfl, writeCmd, hi]

/-- Settles O7: a step is the next turn's action, which for a sequencer and for CMD is the decoded instruction; the queue, the counter,
the draws and the active sequencer are the model's own (log 2, log 3, log 11). -/
theorem stepRunsTheDecodedInstruction : Obligations.StepRunsTheDecodedInstruction := by
  intro s
  refine ⟨step_eq s, rfl, nextTurn_cons s, fun x w i ha hw hi => ?_, fun w i ha hi => ?_⟩
  · rw [step_eq, ha]
    exact seqTurn_eq (s := takeTurn s) hw hi
  · rw [step_eq, ha]
    exact writeCsr_command hi

end Sys2Proof.Machine
end

section
/-! The Bus Responder's instructions `capture` and `drive` and the lookup unit (spec/41_bus_responder.md R188, R192, R196), and what
the invariant of the bus engine says of the pins (R202). -/

namespace Sys2Proof.Machine

open Sys2Proof

/-! ## The instructions -/

/-- Settles O11: the fields take effect, then the sampled address goes to CAP and to ADDR_FIFO. -/
theorem captureInstructionResultAndFrame : Obligations.CaptureInstructionResultAndFrame := by
  intro f s ⟨hl, ha, free, hp⟩ hw hroom
  have hready : (!fifoFull s s.bus.addrFifo) = true := by simpa [fifoFull] using hroom
  have hexec : exec (.capture f) s =
      .next (advance s.active f.hold (captureAction (capturedAddr s) (fieldEffects f s))) :=
    (if_pos hl).trans (congrArg _ (microStep_proceeds ha free hw hready))
  obtain ⟨-, harmed, hhi, hsig, hcap, hdout, hdir, hctrl, haddr, hreply⟩ :=
    advance_frame s.active f.hold (captureAction (capturedAddr s) (fieldEffects f s))
  refine ⟨_, hexec, hcap, ?_, ?_, hsig, hdir, hctrl,
    endsStep_advance (s := captureAction (capturedAddr s) (fieldEffects f s)) hp free f.hold, ⟨harmed, hhi⟩, hdout, hreply,
    onlyBusChanged_of_legal hl hexec⟩
  · rw [hcap]
    exact assembleAddr_even s.bus.addrHi (sampleAd s)
  · rw [haddr, hcap]
    rfl

/-- Settles O12: the fields take effect, then the oldest reply goes to DOUT whole. -/
theorem driveInstructionResultAndFrame : Obligations.DriveInstructionResultAndFrame := by
  intro f s w rest ⟨hl, ha, free, hp⟩ hw hq
  have hready : (!s.bus.replyFifo.isEmpty) = true := by rw [hq]; rfl
  have hexec : exec (.drive f) s =
      .next (advance s.active f.hold (driveAction (s.bus.replyFifo.headD s.bus.dout) (fieldEffects f s))) :=
    (if_pos hl).trans (congrArg _ (microStep_proceeds ha free hw hready))
  rw [hq, List.headD_cons] at hexec
  obtain ⟨-, harmed, hhi, hsig, hcap, hdout, hdir, hctrl, haddr, hreply⟩ :=
    advance_frame s.active f.hold (driveAction w (fieldEffects f s))
  have htail : (driveAction w (fieldEffects f s)).bus.replyFifo = rest := congrArg List.tail hq
  exact ⟨_, hexec, hdout, hreply.trans htail, hsig, hdir, hctrl,
    endsStep_advance (s := driveAction w (fieldEffects f s)) hp free f.hold, ⟨harmed, hhi⟩, hcap, haddr,
    onlyBusChanged_of_legal hl hexec⟩

/-! ## The lookup unit -/

/-- With an address waiting and room for the reply the lookup unit serves it (41_bus_responder.md R196). -/
theorem luStep_serves {s : State} {a : Word32} {rest : List Word32} (ha : s.bus.armed = true)
    (hq : s.bus.addrFifo = a :: rest) (hroom : s.bus.replyFifo.length < s.params.fifoDepth) :
    luStep s = { s with bus := { s.bus with
      addrFifo := rest, replyFifo := s.bus.replyFifo ++ [ramRead16 s a] } } := by
  have hfull : fifoFull s s.bus.replyFifo = false := by simpa [fifoFull] using hroom
  simp [luStep, ha, hfull, hq, pushReply, popAddr]

/-- The lookup unit stalls while the pair is disarmed, no address waits or REPLY_FIFO is full (41_bus_responder.md R196). -/
theorem luStep_stalls {s : State}
    (h : s.bus.armed = false ∨ s.bus.addrFifo = [] ∨ s.params.fifoDepth ≤ s.bus.replyFifo.length) : luStep s = s := by
  rcases luStep_cases s with hs | ⟨a, rest, ha, hfull, hq, -⟩
  · exact hs
  · rcases h with hd | hn | hr
    · simp [hd] at ha
    · simp [hn] at hq
    · simp [fifoFull, hr] at hfull

/-- Settles O20: the unit serves the oldest address, or stalls. -/
theorem lookupStepReadsTheWindow : Obligations.LookupStepReadsTheWindow := by
  refine fun s => ⟨fun a rest ha hq hroom => ?_, luStep_stalls⟩
  have hserves := luStep_serves ha hq hroom
  refine ⟨hserves, fun b => ramByte_congr s _ b ?_ ?_, fun o => flashByte_congr s _ o ?_⟩ <;> rw [hserves]

/-! ## The pins -/

/-- DIR, CTRL and the number of entries in flight in each phase (41_bus_responder.md R181). -/
theorem BusInv.pins_of_phase {s : State} (hi : BusInv s) :
    (s.bus.dir = .output ↔ 5 ≤ s.bus.brUpc.toNat) ∧ (s.bus.ctrl = .nrw ↔ 6 ≤ s.bus.brUpc.toNat) ∧ s.bus.ctrl ≠ .rw ∧
      s.bus.addrFifo.length + s.bus.replyFifo.length ≤ 1 := by
  have hp := hi.phase
  have one (h : inFlight s) : s.bus.addrFifo.length + s.bus.replyFifo.length ≤ 1 := by
    rcases h with ⟨hq, hr⟩ | ⟨hq, hr⟩ <;> simp [hq, hr]
  rcases upc_cases s.bus.brUpc with hu | hu | hu | hu | hu | hu | hu | hu <;> rw [hu] at hp ⊢
  case inr.inr.inl =>
    obtain ⟨hdir, hctrl, haddr, hreply⟩ : brPhase 2 s := hp
    split at hctrl <;> simp [hdir, hctrl, haddr, hreply]
  case inr.inr.inr.inr.inl | inr.inr.inr.inr.inr.inl =>
    obtain ⟨hdir, hctrl, hflight, -⟩ := hp
    simp [hdir, hctrl, one hflight]
  all_goals
    obtain ⟨hdir, hctrl, ⟨haddr, hreply⟩, -⟩ := hp
    simp [hdir, hctrl, haddr, hreply]

/-- A disarmed engine has its pins released (41_bus_responder.md R203). -/
theorem BusInv.released_of_disarmed {s : State} (hi : BusInv s) (ha : s.bus.armed = false) :
    s.bus.dir = .input ∧ s.bus.ctrl = .nrnw := by
  obtain ⟨-, hupc, -⟩ := hi.disarmed ha
  obtain ⟨hdir, hctrl, -⟩ : brPhase 0 s := hi.phase_at hupc
  exact ⟨hdir, hctrl⟩

/-- Settles O46: the phase of each UPC, the disarmed engine, and the valid data of UPC 6 and 7. -/
theorem pinsFollowTheServicePhase : Obligations.PinsFollowTheServicePhase := by
  intro s hm
  obtain ⟨hdir, hctrl, hrw, hone⟩ := hm.bus.pins_of_phase
  refine ⟨hdir, hctrl, hrw, hone, fun ha => ?_, fun hu => hostSees_dataValid hm.bus (by bv_omega)⟩
  obtain ⟨hin, hnrnw⟩ := hm.bus.released_of_disarmed ha
  exact ⟨hin, hnrnw, by rw [hostSees_invalid (by simp [hin])]⟩

end Sys2Proof.Machine
end

section
/-! Every step of every agent keeps the machine's invariant: what each agent's step can do under it, the part of the invariant that each
of these moves touches, and the step (spec/41_bus_responder.md R181, R198, R203, spec/42_staging.md R230, R241,
spec/43_mode_controller.md R263, R264, R267, R301, spec/60_exceptions.md R334). -/

namespace Sys2Proof.Machine

open Sys2Proof

/-! ## What each part of the invariant depends on -/

/-- The bus engine's invariant depends on its registers, the stores and RAM. -/
theorem BusInv.congr {s t : State} (hi : BusInv s) (hk : StoresKept s t) (hb : t.bus = s.bus) : BusInv t where
  bmProg := hk.bmProg.trans hi.bmProg
  brProg := by rw [hk.brProg, hk.params, hi.brProg]
  monitor0 := hb ▸ hi.monitor0
  monitor1 := hb ▸ hi.monitor1
  phase := by
    rw [hb]
    exact brPhase_congr (by rw [hb]) hk hi.phase
  holdBound := by rw [hb, hk.params]; exact hi.holdBound
  capEven := hb ▸ hi.capEven
  addrHi := by rw [hb, hk.params]; exact hi.addrHi
  capInWin := by rw [hb]; exact hi.capInWin
  disarmed := by rw [hb]; exact hi.disarmed

/-- The Mode Controller's invariant does not depend on LAST_ERROR, and it allows the flash request to end. -/
theorem McInv.congr {s t : State} (hi : McInv s) (hmc : t.mc = { s.mc with lastError := t.mc.lastError })
    (hlp : t.db.lpEn = s.db.lpEn) (hrl : t.rl.busy = s.rl.busy) (hfs : t.fs.busy = true → s.fs.busy = true)
    (harm : t.bus.armed = s.bus.armed) (hnv : t.nv = s.nv) : McInv t where
  lpEn := by rw [hlp, hmc]; exact hi.lpEn
  resetReq := by rw [hmc]; exact hi.resetReq
  handoff := by rw [hmc]; exact hi.handoff
  noFatal := by rw [hmc]; exact hi.noFatal
  rlBusy := by rw [hrl, harm, hmc]; exact hi.rlBusy
  fsBusy := fun h => by rw [hmc]; exact hi.fsBusy (hfs h)
  before := by rw [harm, hmc]; exact hi.before
  loading := by rw [hrl, harm, hmc]; exact hi.loading
  after := by rw [harm, hmc]; exact hi.after
  setupMode := by rw [hmc]; exact hi.setupMode
  emuMode := by rw [hmc]; exact hi.emuMode
  pendMode := by rw [hmc]; exact hi.pendMode
  nvSetup := by rw [hnv, hmc]; exact hi.nvSetup

/-- The load's invariant depends on RL, ARMED, MODE, RAM and, while an image is in use, on that image. -/
theorem LoadInv.congr {s t : State} (hi : LoadInv s) (hk : StoresKept s t) (hrl : t.rl = s.rl)
    (harm : t.bus.armed = s.bus.armed) (hmode : t.mc.mode = s.mc.mode)
    (himage : s.rl.busy = true ∨ s.bus.armed = true → ∀ i, imageByte t i = imageByte s i) : LoadInv t where
  bounds := by rw [hrl, harm, hk.params]; exact hi.bounds
  copied := by
    rw [hrl, harm, hk.params]
    intro h i hlt
    rw [ramByte_congr s t _ hk.ram hk.resets, himage h]
    exact hi.copied h i hlt
  whole := by rw [hrl, harm]; exact hi.whole
  source := by rw [hrl, harm, hmode]; exact hi.source

/-- The image of a load depends on RL_SRC, the parameters and FLASH. -/
theorem imageByte_congr {s t : State} (hsrc : t.rl.src = s.rl.src) (hp : t.params = s.params) (hflash : t.flash = s.flash)
    (i : Nat) : imageByte t i = imageByte s i := by
  rw [imageByte, imageByte, hsrc, hp, flashByte_congr s t _ hflash]

/-- While no load runs and the pair is disarmed nothing is to show of the load. -/
theorem LoadInv.of_unused {s : State} (hb : s.rl.busy = false) (ha : s.bus.armed = false) : LoadInv s := by
  have unused : ¬(s.rl.busy = true ∨ s.bus.armed = true) := by simp [hb, ha]
  exact ⟨fun h => absurd h unused, fun h => absurd h unused, fun h => absurd (.inr h) unused, fun h => absurd h unused⟩

/-- The stager's invariant depends on the FS registers, the parameters and STORAGE. -/
theorem StagerInv.congr {s t : State} (hi : StagerInv s) (hfs : t.fs = s.fs) (hp : t.params = s.params)
    (hst : t.storage = s.storage) : StagerInv t where
  start := by rw [hfs, hp]; exact hi.start
  chunk := by rw [hfs, hp, hst]; exact hi.chunk

/-- While no flash request runs nothing is to show of it. -/
theorem StagerInv.of_idle {s : State} (h : s.fs.busy = false) : StagerInv s :=
  ⟨fun hb => absurd hb (by simp [h]), fun hb => absurd hb (by simp [h])⟩

/-- The debouncer's invariant depends on CNT, HOLDC and the parameters. -/
theorem DebounceInv.congr {s t : State} (hi : DebounceInv s) (hcnt : t.db.cnt = s.db.cnt) (hhold : t.db.holdc = s.db.holdc)
    (hp : t.params = s.params) : DebounceInv t where
  cnt := by rw [hcnt, hp]; exact hi.cnt
  holdc := by rw [hhold, hp]; exact hi.holdc

/-- The launch premises depend on the parameters and STORAGE. -/
theorem premises_congr {s t : State} (hp : t.params = s.params) (hst : t.storage = s.storage) : premises t = premises s := by
  rw [premises, premises, hp, hst]

theorem premises_wf {s : State} (h : premises s = true) : s.params.wf = true := ((Bool.and_eq_true _ _).mp h).1

theorem premises_storageWf {s : State} (h : premises s = true) : storageWf s.storage = true :=
  ((Bool.and_eq_true _ _).mp h).2

/-- A move of the bus engine, of the wires, of MENU's ports or of the schedule touches nothing but the bus engine's invariant, as long as
it does not arm. -/
theorem MachineInv.of_busMove {s t : State} (hi : MachineInv s)
    (hrest : t = { s with
      bus := t.bus, menu := t.menu, out := t.out, turns := t.turns, steps := t.steps, draw := t.draw, active := t.active })
    (harm : t.bus.armed = s.bus.armed) (hbus : BusInv t) : MachineInv t := by
  have hk : StoresKept s t := by rw [hrest]; exact ⟨rfl, rfl, rfl, rfl, rfl⟩
  have hst : t.storage = s.storage := by rw [hrest]
  have hprem := premises_congr hk.params hst
  have hrl : t.rl = s.rl := by rw [hrest]
  have hmc : t.mc = s.mc := by rw [hrest]
  have hfs : t.fs = s.fs := by rw [hrest]
  have hdb : t.db = s.db := by rw [hrest]
  have hflash : t.flash = s.flash := by rw [hrest]
  have hnv : t.nv = s.nv := by rw [hrest]
  refine ⟨hbus, ?_, ?_, fun hp => ?_, fun hp => ?_⟩
  · exact hi.mc.congr (by rw [hmc]) (by rw [hdb]) (by rw [hrl]) (fun h => hfs ▸ h) harm hnv
  · exact hi.debounce.congr (by rw [hdb]) (by rw [hdb]) hk.params
  · exact (hi.load (hprem ▸ hp)).congr hk hrl harm (by rw [hmc]) fun _ => imageByte_congr (by rw [hrl]) hk.params hflash
  · exact (hi.stager (hprem ▸ hp)).congr hfs hk.params hst

/-- Taking a turn touches no part of the invariant. -/
theorem MachineInv.after_takeTurn {s : State} (hi : MachineInv s) : MachineInv (takeTurn s) :=
  hi.of_busMove (t := takeTurn s) rfl rfl hi.bus.after_takeTurn

/-! ## The bus engine -/

/-- A legal micro-word changes nothing while the pair is disarmed (40_bus_monitor.md R160). -/
theorem exec_disarmed {i : Instr} {s : State} (hl : i.legalFor s.active = true) (ha : s.bus.armed = false) :
    exec i s = .next s := by
  have stalls (f : MicroFields) (hi : microFields i f) : exec i s = .next s :=
    stalledMicroWordChangesNothing i f s hi hl (.inl ha)
  cases i with
  | step f => exact stalls f (.inl rfl)
  | raise f => exact stalls f (.inr (.inl rfl))
  | capture f => exact stalls f (.inr (.inr (.inl rfl)))
  | drive f => exact stalls f (.inr (.inr (.inr rfl)))
  | nop | launch m | handoff => cases hx : s.active <;> rw [hx] at hl <;> cases hl

/-- While the pair is disarmed only RL, with its ARM step, and a device reset write the bus engine (41_bus_responder.md R203). -/
theorem runAction_disarmed_bus {a : Action} {s t : State} (ha : s.bus.armed = false) (hrl : a ≠ .rl)
    (hr : a ≠ .deviceReset) (h : runAction a s = .next t) : t.bus = s.bus := by
  rcases runAction_cases a s t h with ⟨x, rfl, h⟩ | ⟨rfl, rfl⟩ | ⟨rfl, -⟩ | ⟨rfl, h⟩ | ⟨rfl, rfl⟩ | ⟨rfl, rfl⟩ | ⟨w, rfl, h⟩ |
    ⟨rfl, -⟩ | ⟨h, -⟩
  · obtain ⟨w, i, -, hi, he⟩ := seqTurn_next x s t h
    rw [exec_disarmed (s := { s with active := x }) (decodeFor_legal hi) ha] at he
    rw [← Host.Outcome.next.inj he]
  · rw [luStep_stalls (.inl ha)]
  · exact absurd rfl hrl
  · rw [fsStep_frame s t h]
  · rw [(mcStep_frame s).1]
  · rw [(dbTick_frame s).1]
  · rw [(writeCmd_frame h).1]
  · exact absurd rfl hr
  · rw [h]

/-- ARMED is written by RL and by a device reset alone (10_state.md R31). -/
theorem runAction_keeps_armed {a : Action} {s t : State} (hi : BusInv s) (hrl : a ≠ .rl) (hr : a ≠ .deviceReset)
    (h : runAction a s = .next t) : t.bus.armed = s.bus.armed := by
  cases ha : s.bus.armed with
  | false => rw [runAction_disarmed_bus ha hrl hr h, ha]
  | true => exact (hi.of_servingMove ha (runAction_storesKept ha hr h) (runAction_servingMove hi ha hr h)).2

/-- What an RL step can do while the pair is disarmed (42_staging.md R223, R228). -/
inductive LoadMove (s : State) : State → Prop
  | idle : LoadMove s s
  | copy (busy : s.rl.busy = true) (more : s.rl.idx.toNat < s.rl.len.toNat) (b : Byte)
      (byte : loadByte s s.rl.idx.toNat = .ok b) :
      LoadMove s { ramWrite (loadAddr s s.rl.idx.toNat) b s with rl := { s.rl with idx := s.rl.idx + 1 } }
  | arm (busy : s.rl.busy = true) (done : s.rl.idx = s.rl.len) : LoadMove s { s with
      bus := { s.bus with
        armed := true, addrHi := s.params.winHigh, sig := false, bm0 := ⟨0, 0⟩, bm1 := ⟨0, 0⟩, brUpc := 0, brHold := 0
        addrFifo := [], replyFifo := [] }
      rl := { s.rl with busy := false } }

theorem loadMove_of_rlStep {s t : State} (hfree : s.rl.busy = true → s.bus.armed = false) (h : rlStep s = .next t) :
    LoadMove s t := by
  rcases rlStep_next s t h with rfl | ⟨busy, more, hc⟩ | ⟨busy, done, rfl⟩
  · exact .idle
  · rcases rlCopyStep_next s t hc with ⟨ha, -⟩ | ⟨-, b, hb, rfl⟩
    · exact absurd ha (by simp [hfree busy])
    · exact .copy busy more b hb
  · rcases armStep_cases s with ⟨ha, -⟩ | ⟨-, h⟩
    · exact absurd ha (by simp [hfree busy])
    · rw [h]
      exact .arm busy done

/-- A load leaves a disarmed bus engine as it is, and the ARM step starts it in the window with nothing in flight (42_staging.md R228). -/
theorem LoadMove.keeps_busInv {s t : State} (h : LoadMove s t) (hi : BusInv s) (ha : s.bus.armed = false) : BusInv t := by
  obtain ⟨-, hupc, -⟩ := hi.disarmed ha
  have hphase : brPhase 0 s := hi.phase_at hupc
  cases h with
  | idle => exact hi
  | copy busy more b byte =>
    exact ⟨hi.bmProg, hi.brProg, hi.monitor0, hi.monitor1, by simpa [hupc, brPhase, fifosEmpty] using hphase, hi.holdBound,
      hi.capEven, hi.addrHi, hi.capInWin, hi.disarmed⟩
  | arm busy done =>
    obtain ⟨hdir, hctrl, -⟩ := hphase
    exact ⟨hi.bmProg, hi.brProg, monitorOk_start, monitorOk_start, ⟨hdir, hctrl, ⟨rfl, rfl⟩, rfl⟩, Nat.zero_le _,
      hi.capEven, fun _ => rfl, nofun, nofun⟩

/-- Every action keeps the bus engine's invariant. -/
theorem runAction_keeps_busInv {a : Action} {s t : State} (hi : BusInv s) (h : runAction a s = .next t) : BusInv t := by
  by_cases hr : a = .deviceReset
  · subst hr
    rw [← Host.Outcome.next.inj h]
    exact busInv_of_afterReset (afterReset_deviceReset hi.bmProg hi.brProg)
  cases ha : s.bus.armed with
  | true => exact (hi.of_servingMove ha (runAction_storesKept ha hr h) (runAction_servingMove hi ha hr h)).1
  | false =>
    by_cases hrl : a = .rl
    · subst hrl
      exact (loadMove_of_rlStep (fun _ => ha) h).keeps_busInv hi ha
    · have hf := runAction_frame h
      obtain ⟨hbm, hbr, hparams⟩ := hf.stores_kept
      obtain ⟨hram, hresets⟩ : t.ram = s.ram ∧ t.resets = s.resets :=
        hf.ram_writers.resolve_right (by simp [hrl, hr])
      exact hi.congr ⟨hparams, hbm, hbr, hram, hresets⟩ (runAction_disarmed_bus ha hrl hr h)

/-! ## The RAM Loader -/

/-- A load copies at most the window (42_staging.md R221, 00_scope.md R10). -/
theorem Params.wf_loadLength {p : Params} (h : p.wf = true) (src : Source) : loadLength p src ≤ 65536 := by
  simp only [Params.wf, Bool.and_eq_true, decide_eq_true_eq, and_assoc] at h
  obtain ⟨-, -, -, -, -, -, -, -, -, -, -, hcomm, -⟩ := h
  cases src with
  | comm => exact hcomm
  | rom => exact Nat.le_refl _

/-- The address of a byte of the image does not leave the window (42_staging.md R223). -/
theorem loadAddr_toNat {s : State} {i : Nat} (h : s.params.wf = true) (hi : i < 65536) :
    (loadAddr s i).toNat = s.params.ramWinBase.toNat + i := by
  have hbase := Params.wf_winBase h
  have hwin := s.params.ramWinBase.isLt
  rw [loadAddr, BitVec.toNat_add, BitVec.toNat_ofNat]
  omega

/-- The byte a copy step reads is the image's (42_staging.md R223, R224). -/
theorem loadByte_eq_imageByte {s : State} {i : Nat} {b : Byte} (h : loadByte s i = .ok b) : b = imageByte s i := by
  unfold loadByte at h
  unfold imageByte
  cases hsrc : s.rl.src with
  | comm =>
    simp only [hsrc] at h ⊢
    split at h
    · rename_i b' hb
      cases h
      simp [List.getD, hb]
    · cases h
  | rom =>
    simp only [hsrc] at h ⊢
    split at h <;> cases h
    rfl

/-- A copy step adds one byte to the copied part of the image; the ARM step puts the complete copy to use (42_staging.md R224, R230). -/
theorem LoadMove.keeps_loadInv {s t : State} (h : LoadMove s t) (hwf : s.params.wf = true) (hi : LoadInv s) : LoadInv t := by
  cases h with
  | idle => exact hi
  | copy busy more b byte =>
    obtain ⟨hlen, -⟩ := hi.bounds (.inl busy)
    have hmax := Params.wf_loadLength hwf s.rl.src
    have hidx : (s.rl.idx + 1).toNat = s.rl.idx.toNat + 1 := by bv_omega
    have hwhole : s.bus.armed = true → s.rl.idx + 1 = s.rl.len := fun ha =>
      absurd (congrArg BitVec.toNat (hi.whole ha)) more.ne
    refine ⟨fun _ => ⟨hlen, hidx ▸ more⟩, fun _ i hlt => ?_, hwhole, fun _ => hi.source (.inl busy)⟩
    have hlt : i < s.rl.idx.toNat + 1 := hidx ▸ hlt
    have hbyte := ramByte_ramWrite (loadAddr s s.rl.idx.toNat) b s (s.params.ramWinBase.toNat + i)
    rw [loadAddr_toNat hwf (by omega)] at hbyte
    refine (ramByte_congr (ramWrite (loadAddr s s.rl.idx.toNat) b s) _ _ rfl rfl).trans (hbyte.trans ?_)
    split
    · rename_i heq
      rw [show i = s.rl.idx.toNat by omega]
      exact loadByte_eq_imageByte byte
    · exact hi.copied (.inl busy) i (by omega)
  | arm busy done =>
    exact ⟨fun _ => hi.bounds (.inl busy), fun _ => hi.copied (.inl busy), fun _ => done, fun _ => hi.source (.inl busy)⟩

/-- The MC waits for the load in a state that is not one before it, so it finds the pair armed (43_mode_controller.md R268, R292). -/
theorem LoadMove.keeps_mcInv {s t : State} (h : LoadMove s t) (hi : McInv s) : McInv t := by
  cases h with
  | idle => exact hi
  | copy busy more b byte => exact hi.congr rfl rfl rfl id rfl rfl
  | arm busy done =>
    have hload : s.mc.state.beforeLoad ≠ true := by
      have hload := (hi.rlBusy busy).2
      revert hload
      cases s.mc.state <;> simp [McState.loading, McState.beforeLoad]
    exact { hi with
      rlBusy := nofun
      before := fun h => absurd h hload
      loading := fun _ => .inr rfl
      after := fun _ => rfl }

/-- An RL step keeps the invariant: under it a load never finds the pair armed (60_exceptions.md R334). -/
theorem rlStep_keeps_machineInv {s t : State} (hi : MachineInv s) (hbus : BusInv t) (h : rlStep s = .next t) :
    MachineInv t := by
  have hm := loadMove_of_rlStep (fun busy => (hi.mc.rlBusy busy).1) h
  have hrest : t.params = s.params ∧ t.storage = s.storage ∧ t.fs = s.fs ∧ t.db = s.db := by
    cases hm <;> exact ⟨rfl, rfl, rfl, rfl⟩
  obtain ⟨hparams, hst, hfs, hdb⟩ := hrest
  have hprem := premises_congr hparams hst
  refine ⟨hbus, hm.keeps_mcInv hi.mc, hi.debounce.congr (by rw [hdb]) (by rw [hdb]) hparams, fun hp => ?_, fun hp => ?_⟩
  · rw [hprem] at hp
    exact hm.keeps_loadInv (premises_wf hp) (hi.load hp)
  · exact (hi.stager (hprem ▸ hp)).congr hfs hparams hst

/-! ## The Flash Stager -/

/-- STORAGE holds files of u32 length (20_memory.md R95). -/
theorem lookupFile_length {name bytes : List Byte} {files : List StoredFile} (hwf : storageWf files = true)
    (h : lookupFile name files = some bytes) : bytes.length < 2 ^ 32 := by
  induction files with
  | nil => cases h
  | cons f fs ih =>
    simp only [storageWf, List.all_cons, Bool.and_eq_true, decide_eq_true_eq] at hwf
    obtain ⟨hf, hfs⟩ := hwf
    unfold lookupFile at h
    split at h
    · cases h
      exact hf
    · exact ih hfs h

/-- A file that opens is the stored one of that name, with its length (20_memory.md R95). -/
theorem stOpen_some {name : List Byte} {s : State} {h : Handle} {len : Nat} (ho : stOpen name s = some (h, len)) :
    ∃ bytes, lookupFile h.name s.storage = some bytes ∧ bytes.length = len := by
  unfold stOpen at ho
  split at ho
  · obtain ⟨bytes, hb, heq⟩ := Option.map_eq_some_iff.1 ho
    obtain ⟨rfl, rfl⟩ := Prod.mk.inj heq
    exact ⟨bytes, hb, rfl⟩
  · cases ho

/-- The size check ends the request, or the payload fits the staging region (42_staging.md R237). -/
theorem fsSizeCheck_cases (s : State) :
    (fsSizeCheck s).fs.busy = false ∨ (s.fs.len.toNat - s.fs.pos.toNat ≤ stageSize ∧ fsSizeCheck s = s) := by
  unfold fsSizeCheck
  split
  · exact .inl rfl
  · exact .inr ⟨by omega, rfl⟩

/-- What a start step leaves in the FS registers: the request has ended, or a sector-aligned cursor and an open file whose payload fits
the staging region (42_staging.md R234 to R237). -/
theorem fsStartStep_cases (s : State) :
    (fsStartStep s).fs.busy = false ∨
    ∃ h bytes pos, s.fs.off.toNat % s.params.sector = 0 ∧ lookupFile h.name s.storage = some bytes ∧
      pos ≤ bytes.length ∧ (BitVec.ofNat 32 bytes.length).toNat - (BitVec.ofNat 32 pos).toNat ≤ stageSize ∧
      (fsStartStep s).fs =
        { s.fs with handle := some h, len := BitVec.ofNat 32 bytes.length, pos := BitVec.ofNat 32 pos } := by
  unfold fsStartStep
  split
  · exact .inl rfl
  rename_i halign
  have halign := not_not.1 halign
  split
  · exact .inl rfl
  rename_i h len ho
  obtain ⟨bytes, hb, rfl⟩ := stOpen_some ho
  dsimp only
  split
  · rename_i hlen
    split
    · exact .inl rfl
    · rename_i header hr
      have hpos : (if header.all (fun b => b == 0) then 4 else 0) ≤ bytes.length := by
        simp only [headerLength, Bool.and_eq_true, decide_eq_true_eq] at hlen
        split <;> omega
      generalize (if header.all (fun b => b == 0) then 4 else 0) = pos at hpos
      rcases fsSizeCheck_cases (fsSetPos pos { s with fs := { s.fs with handle := some h, len := BitVec.ofNat 32 bytes.length } })
        with hend | ⟨hfits, heq⟩
      · exact .inl hend
      · rw [heq]
        exact .inr ⟨h, bytes, pos, halign, hb, hpos, hfits, rfl⟩
  · rcases fsSizeCheck_cases (fsSetPos 0 { s with fs := { s.fs with handle := some h, len := BitVec.ofNat 32 bytes.length } })
      with hend | ⟨hfits, heq⟩
    · exact .inl hend
    · rw [heq]
      exact .inr ⟨h, bytes, 0, halign, hb, Nat.zero_le _, hfits, rfl⟩

/-- A start step opens the file at the head of the staging region (42_staging.md R234, R237). -/
theorem fsStartStep_keeps_stagerInv {s : State} (hst : storageWf s.storage = true) (hi : StagerInv s)
    (busy : s.fs.busy = true) (hh : s.fs.handle = none) : StagerInv (fsStartStep s) := by
  have hrest := fsStartStep_rest s
  have hparams : (fsStartStep s).params = s.params := by rw [hrest]
  have hstorage : (fsStartStep s).storage = s.storage := by rw [hrest]
  rcases fsStartStep_cases s with hend | ⟨h, bytes, pos, halign, hb, hpos, hfits, hfs⟩
  · exact .of_idle hend
  obtain ⟨hoff, -⟩ := hi.start busy hh
  have hlt := lookupFile_length hst hb
  have hlen : (BitVec.ofNat 32 bytes.length).toNat = bytes.length := Nat.mod_eq_of_lt hlt
  have hpos' : (BitVec.ofNat 32 pos).toNat = pos := Nat.mod_eq_of_lt (by omega)
  constructor
  · rw [hfs]
    exact fun _ h => absurd h (by simp)
  · rw [hfs, hparams, hstorage]
    dsimp only
    rw [hlen, hpos'] at hfits ⊢
    intro _ h' hsome
    cases hsome
    exact ⟨⟨bytes, hb, rfl⟩, hpos, .inl halign, hoff.ge, by omega⟩

/-- A programmed chunk moves the cursor by its unpadded length: to the next sector, or to the end of the payload (42_staging.md R241,
R242). -/
theorem StagerInv.after_chunk {s t : State} {h : Handle} (g : FlashGeometry s.params) (hsize : s.params.flashSize < 2 ^ 32)
    (hi : StagerInv s) (busy : s.fs.busy = true) (hh : s.fs.handle = some h) (hne : s.fs.pos ≠ s.fs.len)
    (hp : t.params = s.params) (hst : t.storage = s.storage)
    (hfs : t.fs = { s.fs with
      off := s.fs.off + BitVec.ofNat 32 (chunkSize s), pos := s.fs.pos + BitVec.ofNat 32 (chunkSize s) }) : StagerInv t := by
  obtain ⟨hfile, hpos, hcursor, hoff, hroom⟩ := hi.chunk busy h hh
  have halign := hcursor.resolve_right hne
  have hstage := g.stage_in_flash
  have hle : chunkSize s ≤ s.fs.len.toNat - s.fs.pos.toNat := Nat.min_le_right _ _
  have hlen := s.fs.len.isLt
  have hpos' : (s.fs.pos + BitVec.ofNat 32 (chunkSize s)).toNat = s.fs.pos.toNat + chunkSize s := by
    rw [BitVec.toNat_add, BitVec.toNat_ofNat]
    omega
  have hoff' : (s.fs.off + BitVec.ofNat 32 (chunkSize s)).toNat = s.fs.off.toNat + chunkSize s := by
    rw [BitVec.toNat_add, BitVec.toNat_ofNat]
    omega
  have hcursor' : (s.fs.off.toNat + chunkSize s) % s.params.sector = 0 ∨
      s.fs.pos + BitVec.ofNat 32 (chunkSize s) = s.fs.len := by
    rcases Nat.le_total s.params.sector (s.fs.len.toNat - s.fs.pos.toNat) with hfull | hlast
    · have hn : chunkSize s = s.params.sector := Nat.min_eq_left hfull
      exact .inl (by rw [hn, Nat.add_mod_right, halign])
    · have hn : chunkSize s = s.fs.len.toNat - s.fs.pos.toNat := Nat.min_eq_right hlast
      exact .inr (BitVec.eq_of_toNat_eq (by omega))
  constructor
  · rw [hfs]
    exact fun _ hn => absurd (hh.symm.trans hn) (by simp)
  · rw [hfs, hp, hst]
    dsimp only
    rw [hpos', hoff']
    intro _ h' hsome
    obtain rfl : h = h' := Option.some.inj (hh.symm.trans hsome)
    exact ⟨hfile, by omega, hcursor', by omega, by omega⟩

theorem Params.wf_flashSize {p : Params} (h : p.wf = true) : p.flashSize < 2 ^ 32 := by
  simp only [Params.wf, Bool.and_eq_true, decide_eq_true_eq, and_assoc] at h
  obtain ⟨-, -, -, -, -, -, -, -, hsize, -⟩ := h
  exact hsize

/-- A chunk step ends the request or programs the next chunk (42_staging.md R240). -/
theorem fsChunkStep_keeps_stagerInv {s t : State} {h : Handle} (hwf : s.params.wf = true) (hi : StagerInv s)
    (busy : s.fs.busy = true) (hh : s.fs.handle = some h) (hstep : fsChunkStep h s = .next t) : StagerInv t := by
  rcases fsChunkStep_next h s t hstep with ⟨-, rfl⟩ | ⟨-, -, rfl⟩ | ⟨hne, bytes, -, hprog⟩
  · exact .of_idle rfl
  · exact .of_idle rfl
  · obtain ⟨u, v, he, hp, hres⟩ := fsProgramChunk_next _ _ _ _ hprog
    obtain ⟨-, -, rfl⟩ := flashErase_some _ _ _ he
    obtain ⟨-, -, -, -, -, rfl⟩ := flashProgram_some _ _ _ _ hp
    rcases hres with ⟨-, rfl⟩ | ⟨-, rfl⟩
    · exact hi.after_chunk (Params.wf_geometry hwf) (Params.wf_flashSize hwf) busy hh hne rfl rfl rfl
    · exact .of_idle rfl

theorem fsStep_keeps_stagerInv {s t : State} (hp : premises s = true) (hi : StagerInv s) (h : fsStep s = .next t) :
    StagerInv t := by
  rcases fsStep_next s t h with ⟨-, rfl⟩ | ⟨busy, hh, rfl⟩ | ⟨busy, hd, hh, hc⟩
  · exact hi
  · exact fsStartStep_keeps_stagerInv (premises_storageWf hp) hi busy hh
  · exact fsChunkStep_keeps_stagerInv (premises_wf hp) hi busy hh hc

/-- A flash request runs in SETUP alone, where the image in use is COMM_FW_IMAGE (42_staging.md R227, 43_mode_controller.md R280). -/
theorem imageByte_kept_by_fsStep {s t : State} (hmc : McInv s) (hi : LoadInv s) (h : fsStep s = .next t)
    (used : s.rl.busy = true ∨ s.bus.armed = true) (i : Nat) : imageByte t i = imageByte s i := by
  cases hb : s.fs.busy with
  | false =>
    simp only [fsStep, hb, Bool.not_false, if_true] at h
    rw [Host.Outcome.next.inj h]
  | true =>
    have hmode : s.mc.mode = .setup := hmc.setupMode (by rw [hmc.fsBusy hb]; rfl)
    have hsrc : s.rl.src = .comm := by
      cases hs : s.rl.src with
      | comm => rfl
      | rom => exact absurd hmode ((hi.source used).1 hs)
    have hrest := fsStep_frame s t h
    have hsrc' : t.rl.src = .comm := by rw [hrest]; exact hsrc
    have hparams : t.params = s.params := by rw [hrest]
    rw [imageByte, imageByte, hsrc, hsrc', hparams]

/-- An FS step keeps the invariant: it writes FLASH and its own registers, and it may end the request. -/
theorem fsStep_keeps_machineInv {s t : State} (hi : MachineInv s) (hbus : BusInv t) (h : fsStep s = .next t) :
    MachineInv t := by
  have hrest := fsStep_frame s t h
  have hk : StoresKept s t := by rw [hrest]; exact ⟨rfl, rfl, rfl, rfl, rfl⟩
  have hprem : premises t = premises s := premises_congr hk.params (by rw [hrest])
  have hbusy : t.fs.busy = true → s.fs.busy = true := by
    rcases fsStep_next s t h with ⟨-, rfl⟩ | ⟨busy, -⟩ | ⟨busy, -⟩
    · exact id
    · exact fun _ => busy
    · exact fun _ => busy
  refine ⟨hbus, ?_, ?_, fun hp => ?_, fun hp => ?_⟩
  · exact hi.mc.congr (by rw [hrest]) (by rw [hrest]) (by rw [hrest]) hbusy (by rw [hrest]) (by rw [hrest])
  · exact hi.debounce.congr (by rw [hrest]) (by rw [hrest]) hk.params
  · have hload := hi.load (hprem ▸ hp)
    exact hload.congr hk (by rw [hrest]) (by rw [hrest]) (by rw [hrest]) (imageByte_kept_by_fsStep hi.mc hload h)
  · rw [hprem] at hp
    exact fsStep_keeps_stagerInv hp (hi.stager hp) h

/-! ## The Mode Controller -/

/-- The transitions of the Mode Controller that invoke nothing (43_mode_controller.md R265, R274). -/
inductive Transition : McState → McState → Prop
  | storageFound : Transition .setupInit .setupLoop
  | storageMissing : Transition .setupInit .storageWait
  | storageReturned : Transition .storageWait .setupInit
  | storageAbandoned : Transition .storageWait .factoryReset
  | launch : Transition .setupLoop .launchCheck
  | handoff : Transition .setupLoop .handoffPersist
  | eligible : Transition .launchCheck .launchRecord
  | notEligible : Transition .launchCheck .setupLoop
  | flashed : Transition .launchFlash .launchPersist
  | notFlashed : Transition .launchFlash .setupLoop
  | launched : Transition .launchPersist .resetReq
  | handedOff : Transition .handoffPersist .handedOff
  | delayEnded : Transition .delayWait .emuStage
  | delayAbandoned : Transition .delayWait .factoryReset
  | emulationEnded : Transition .emuWaitExit .exitPersist
  | emulationAbandoned : Transition .emuWaitExit .factoryReset
  | exited : Transition .exitPersist .resetReq
  | factoryReset : Transition .factoryReset .resetReq

/-- Going from p to q keeps what the invariant says by state: whether the load has run, the SETUP path and the emulation states. -/
structure PathKept (p q : McState) : Prop where
  leaves    : p.isTerminal = false
  notFatal  : q ≠ .fatal
  before    : q.beforeLoad = true → p.beforeLoad = true
  loaded    : q.loading = true ∨ q.afterArm = true → p.loading = true ∨ p.afterArm = true
  setupPath : q.setupPath = true → p.setupPath = true
  emulation : q.isEmulation = true → p.isEmulation = true

theorem Transition.pathKept {p q : McState} (h : Transition p q) : PathKept p q := by
  cases h <;> constructor <;> decide

/-- The load a state invokes, and the state in which the MC waits for it (43_mode_controller.md R268, R292). -/
inductive Invokes : McState → Source → McState → Prop
  | setup : Invokes .setupStage .comm .setupInit
  | emulation : Invokes .emuStage .rom .emuWaitExit

/-- The state BOOT enters in a mode (43_mode_controller.md R266). -/
def bootTarget : OpMode → McState
  | .setup => .setupStage
  | .direct => .emuStage
  | .delay => .delayWait

/-- What an MC step or an accepted command can do (43_mode_controller.md R265, R274): stay, go along a path, boot, invoke the load or
the flash request. -/
inductive ControlMove (s : State) : State → Prop
  | stay (e : Event) (r : ErrorCode) :
      ControlMove s { s with mc := { s.mc with lastError := r }, db := { s.db with evt := e } }
  | go {q : McState} {m : ModeRegs} {e : Event} {nv : Nv} (idle : firmwareIdle s) (path : Transition s.mc.state q)
      (regs : m = { s.mc with
        lastError := m.lastError, storageOk := m.storageOk, netOk := m.netOk, pendFile := m.pendFile, pendMode := m.pendMode })
      (pend : m.pendMode = s.mc.pendMode ∨ ∃ l, m.pendMode = launchCode l)
      (persisted : q.setupPath = true → nv.mode = s.nv.mode ∨ nv.mode = some (encodeMode .setup)) :
      ControlMove s (enter q { s with mc := m, db := { s.db with evt := e }, nv := nv })
  | boot {o : OpMode} (at_boot : s.mc.state = .boot) (mode : decodeMode s.nv.mode = o) :
      ControlMove s (enter (bootTarget o) { s with mc := { s.mc with mode := o } })
  | load {src : Source} {q : McState} (invokes : Invokes s.mc.state src q) :
      ControlMove s (enter q { s with rl := ⟨true, src, 0, BitVec.ofNat 17 (loadLength s.params src)⟩ })
  | flash {nv : Nv} (at_record : s.mc.state = .launchRecord) (persisted : nv.mode = s.nv.mode) :
      ControlMove s (enter .launchFlash
        { s with fs := ⟨true, none, 0, 0, BitVec.ofNat 32 s.params.stageOff, .ok⟩, nv := nv })

/-- A change of state that leaves the settings store, PEND_FILE and PEND_MODE alone. -/
theorem ControlMove.of_enter {s : State} {q : McState} (idle : firmwareIdle s) (path : Transition s.mc.state q) :
    ControlMove s (enter q s) :=
  .go (m := s.mc) (e := s.db.evt) idle path rfl (.inl rfl) fun _ => .inl rfl

/-- A change of state after an error is recorded or cleared. -/
theorem ControlMove.of_enter_recordError {s : State} {q : McState} {r : ErrorCode} (idle : firmwareIdle s)
    (path : Transition s.mc.state q) : ControlMove s (enter q (recordError r s)) :=
  .go (m := { s.mc with lastError := r }) (e := s.db.evt) idle path rfl (.inl rfl) fun _ => .inl rfl

/-- A change of state after EVT is consumed. -/
theorem ControlMove.of_enter_setEvent {s : State} {q : McState} {e : Event} (idle : firmwareIdle s)
    (path : Transition s.mc.state q) : ControlMove s (enter q (setEvent e s)) :=
  .go (m := s.mc) (e := e) idle path rfl (.inl rfl) fun _ => .inl rfl

/-- A change of state that persists nothing the SETUP path reads: it leaves the path, or it persists SETUP (43_mode_controller.md R301). -/
theorem ControlMove.of_enter_persist {s : State} {q : McState} {nv : Nv} (idle : firmwareIdle s) (path : Transition s.mc.state q)
    (persisted : q.setupPath = true → nv.mode = s.nv.mode ∨ nv.mode = some (encodeMode .setup)) :
    ControlMove s (enter q { s with nv := nv }) :=
  .go (m := s.mc) (e := s.db.evt) idle path rfl (.inl rfl) persisted

/-- The states in which the MC takes no step (43_mode_controller.md R265) and a wait that found nothing. -/
theorem ControlMove.refl (s : State) : ControlMove s s := .stay s.db.evt s.mc.lastError

/-- The action of each Mode Controller state is one of these moves. -/
theorem controlMove_of_mcAction {s : State} {q : McState} (hq : s.mc.state = q) (idle : firmwareIdle s) :
    ControlMove s (mcAction q s) := by
  cases q with
  | boot =>
    have hmove := ControlMove.boot hq rfl
    simp only [mcAction, mcBoot]
    cases hm : decodeMode s.nv.mode <;> rw [hm] at hmove <;> exact hmove
  | setupStage =>
    simp only [mcAction, mcSetupStage, rlInvoke, idle.1]
    exact .load (hq ▸ .setup)
  | emuStage =>
    simp only [mcAction, mcEmuStage, rlInvoke, idle.1]
    exact .load (hq ▸ .emulation)
  | setupInit =>
    simp only [mcAction, mcSetupInit]
    split
    · split
      · exact .go (m := { s.mc with storageOk := true, netOk := s.draw.connects }) (e := s.db.evt) idle
          (hq ▸ .storageFound) rfl (.inl rfl) fun _ => .inl rfl
      · exact .go (m := { s.mc with storageOk := true, netOk := s.draw.connects, lastError := .networkTimeout })
          (e := s.db.evt) idle (hq ▸ .storageFound) rfl (.inl rfl) fun _ => .inl rfl
    · exact .go (m := { s.mc with storageOk := false, lastError := .storageMissing }) (e := s.db.evt) idle
        (hq ▸ .storageMissing) rfl (.inl rfl) fun _ => .inl rfl
  | storageWait =>
    simp only [mcAction, mcStorageWait]
    split
    · exact .of_enter idle (hq ▸ .storageAbandoned)
    · split
      · exact .of_enter idle (hq ▸ .storageReturned)
      · exact .stay .none s.mc.lastError
  | launchCheck =>
    simp only [mcAction, mcLaunchCheck]
    split
    · exact .of_enter idle (hq ▸ .eligible)
    · exact .of_enter_recordError idle (hq ▸ .notEligible)
  | launchRecord =>
    have hinvoke : fsInvoke (BitVec.ofNat 32 s.params.stageOff) s =
        { s with fs := ⟨true, none, 0, 0, BitVec.ofNat 32 s.params.stageOff, .ok⟩ } := by
      simp only [fsInvoke, idle.2, hq, McState.isEmulation, Bool.false_eq_true, if_false]
    simp only [mcAction, mcLaunchRecord, hinvoke, hq, reduceCtorEq, if_false]
    exact .flash (nv := { s.nv with file := some s.mc.pendFile }) hq rfl
  | launchFlash =>
    simp only [mcAction, mcLaunchFlash]
    split
    · exact .of_enter idle (hq ▸ .flashed)
    · exact .of_enter_recordError idle (hq ▸ .notFlashed)
  | launchPersist =>
    exact .of_enter_persist (nv := { s.nv with mode := some s.mc.pendMode }) idle (hq ▸ .launched) nofun
  | handoffPersist =>
    exact .of_enter_persist (nv := ⟨some (encodeMode .setup), some []⟩) idle (hq ▸ .handedOff)
      fun _ => .inr rfl
  | delayWait =>
    simp only [mcAction, mcDelayWait]
    split
    · exact .refl s
    · exact .of_enter_setEvent idle (hq ▸ .delayEnded)
    · exact .of_enter idle (hq ▸ .delayAbandoned)
  | emuWaitExit =>
    simp only [mcAction, mcEmuWaitExit]
    split
    · exact .refl s
    · exact .of_enter_setEvent idle (hq ▸ .emulationEnded)
    · exact .of_enter idle (hq ▸ .emulationAbandoned)
  | exitPersist =>
    exact .of_enter_persist (nv := ⟨some (encodeMode .setup), some []⟩) idle (hq ▸ .exited) nofun
  | factoryReset =>
    exact .of_enter_persist (nv := ⟨none, none⟩) idle (hq ▸ .factoryReset) nofun
  | setupLoop | handedOff | resetReq | fatal => exact .refl s

theorem controlMove_of_mcStep (s : State) : ControlMove s (mcStep s) := by
  by_cases idle : firmwareIdle s
  · rw [mcStep_idle s _ idle.1 idle.2 rfl]
    exact controlMove_of_mcAction rfl idle
  · have hwait : mcStep s = s := by
      unfold mcStep
      rw [if_pos (by simpa [firmwareIdle, or_iff_not_imp_left] using idle)]
    rw [hwait]
    exact .refl s

/-- Neither RL nor FS runs in a state that waits for neither (43_mode_controller.md R264). -/
theorem McInv.idle_of_state {s : State} (hi : McInv s) (hl : s.mc.state.loading = false) (hf : s.mc.state ≠ .launchFlash) :
    firmwareIdle s := by
  constructor
  · exact Bool.eq_false_iff.2 fun hb => by simp [(hi.rlBusy hb).2] at hl
  · exact Bool.eq_false_iff.2 fun hb => hf (hi.fsBusy hb)

/-- A write to CMD is one of these moves: in SETUP_LOOP neither RL nor FS runs (43_mode_controller.md R274). -/
theorem controlMove_of_writeCmd {w : Word16} {s t : State} (hi : McInv s) (h : writeCmd w s = .next t) : ControlMove s t := by
  have idle (hq : s.mc.state = .setupLoop) : firmwareIdle s := hi.idle_of_state (by rw [hq]; rfl) (by rw [hq]; decide)
  rcases writeCmd_next w s t h with ⟨i, hi, he⟩ | ⟨-, -, rfl⟩
  · have hc := decodeCommand_isCommand hi
    cases i with
    | step f | raise f | capture f | drive f => cases hc
    | nop =>
      cases he
      exact .refl s
    | launch l =>
      cases he
      rcases acceptCommand_cases _ s with ⟨hq, h⟩ | ⟨-, h⟩ | ⟨-, -, h⟩ <;> rw [h]
      · exact .go (m := { s.mc with lastError := .none, pendFile := s.menu.fname, pendMode := launchCode l })
          (e := s.db.evt) (idle hq) (hq ▸ .launch) rfl (.inr ⟨l, rfl⟩) fun _ => .inl rfl
      · exact .refl s
      · exact .stay s.db.evt .commandRejected
    | handoff =>
      cases he
      rcases acceptCommand_cases _ s with ⟨hq, h⟩ | ⟨-, h⟩ | ⟨-, -, h⟩ <;> rw [h]
      · exact .of_enter_recordError (idle hq) (hq ▸ .handoff)
      · exact .refl s
      · exact .stay s.db.evt .commandRejected
  · unfold rejectCommand
    split
    · exact .refl s
    · exact .stay s.db.evt .commandRejected

/-- A control move writes the MC's registers, the invocations of RL and FS, EVT and LP_EN, and the settings store. -/
theorem ControlMove.frame {s t : State} (h : ControlMove s t) :
    onlyControlChanged s t ∧ t.db.cnt = s.db.cnt ∧ t.db.holdc = s.db.holdc := by
  cases h <;> exact ⟨rfl, rfl, rfl⟩

/-- No output signal is set in a state that is not terminal (43_mode_controller.md R297). -/
theorem McInv.signals_off {s : State} (hi : McInv s) (hq : s.mc.state.isTerminal = false) :
    s.mc.resetRequested = false ∧ s.mc.handoff = false ∧ s.mc.fatalF = false := by
  have hreset : s.mc.state ≠ .resetReq := fun h => by
    rw [h] at hq
    cases hq
  have hhanded : s.mc.state ≠ .handedOff := fun h => by
    rw [h] at hq
    cases hq
  exact ⟨hi.resetReq.trans (beq_eq_false_iff_ne.2 hreset), hi.handoff.trans (beq_eq_false_iff_ne.2 hhanded), hi.noFatal.1⟩

/-- The pair is armed where neither RL runs nor the load is still to come (42_staging.md R230). -/
theorem McInv.armed_of_idle {s : State} (hi : McInv s) (idle : firmwareIdle s)
    (h : s.mc.state.loading = true ∨ s.mc.state.afterArm = true) : s.bus.armed = true := by
  rcases h with h | h
  · exact (hi.loading h).resolve_left (by simp [idle.1])
  · exact hi.after h

/-- The mode code that LAUNCH records is 0x00 or 0x01 (10_state.md R53). -/
theorem launchCode_cases (l : LaunchMode) : launchCode l = 0x00 ∨ launchCode l = 0x01 := by
  cases l <;> decide

/-- What the Mode Controller's invariant asks of a state in which q is entered; LP_EN and the output signals are the entry's own
(43_mode_controller.md R263, R297). -/
theorem McInv.of_enter {q : McState} {s : State} (hq : q ≠ .fatal)
    (hoff : s.mc.resetRequested = false ∧ s.mc.handoff = false ∧ s.mc.fatalF = false)
    (hrl : s.rl.busy = true → s.bus.armed = false ∧ q.loading = true) (hfs : s.fs.busy = true → q = .launchFlash)
    (hload : (q.beforeLoad = true → s.bus.armed = false) ∧ (q.loading = true → s.rl.busy = true ∨ s.bus.armed = true) ∧
      (q.afterArm = true → s.bus.armed = true))
    (hsetup : q.setupPath = true → s.mc.mode = .setup ∧ decodeMode s.nv.mode = .setup)
    (hemu : q.isEmulation = true → s.mc.mode ≠ .setup) (hpend : s.mc.pendMode = 0x00 ∨ s.mc.pendMode = 0x01) :
    McInv (enter q s) := by
  obtain ⟨hr, hh, hf⟩ := hoff
  obtain ⟨hbefore, hloading, hafter⟩ := hload
  exact {
    lpEn := rfl
    resetReq := by simp [hr]
    handoff := by simp [hh]
    noFatal := ⟨by simp [hf, hq], hq⟩
    rlBusy := hrl
    fsBusy := hfs
    before := hbefore
    loading := hloading
    after := hafter
    setupMode := fun h => (hsetup h).1
    emuMode := hemu
    pendMode := hpend
    nvSetup := fun h => (hsetup h).2 }

/-- A control move keeps the Mode Controller's invariant. -/
theorem ControlMove.keeps_mcInv {s t : State} (h : ControlMove s t) (hi : McInv s) : McInv t := by
  cases h with
  | stay e r => exact hi.congr rfl rfl rfl id rfl rfl
  | @go q m e nv idle transition regs pend persisted =>
    have path := transition.pathKept
    have hmode : m.mode = s.mc.mode := by rw [regs]
    have hoff : m.resetRequested = false ∧ m.handoff = false ∧ m.fatalF = false := by
      rw [regs]
      exact hi.signals_off path.leaves
    have harmed (hq : q.loading = true ∨ q.afterArm = true) : s.bus.armed = true := hi.armed_of_idle idle (path.loaded hq)
    refine .of_enter path.notFatal hoff (fun hb => absurd hb (by simp [idle.1])) (fun hb => absurd hb (by simp [idle.2]))
      ⟨fun hq => hi.before (path.before hq), fun hq => .inr (harmed (.inl hq)), fun hq => harmed (.inr hq)⟩
      (fun hq => ⟨hmode.trans (hi.setupMode (path.setupPath hq)), ?_⟩) (fun hq => hmode ▸ hi.emuMode (path.emulation hq)) ?_
    · rcases persisted hq with hp | hp
      · exact (congrArg decodeMode hp).trans (hi.nvSetup (path.setupPath hq))
      · exact (congrArg decodeMode hp).trans rfl
    · rcases pend with hp | ⟨l, hp⟩
      · exact hp ▸ hi.pendMode
      · exact hp ▸ launchCode_cases l
  | @boot o at_boot mode =>
    obtain ⟨hrl, hfs⟩ := hi.idle_of_state (by rw [at_boot]; rfl) (by rw [at_boot]; decide)
    have hdis : s.bus.armed = false := hi.before (by rw [at_boot]; rfl)
    refine .of_enter ?_ (hi.signals_off (by rw [at_boot]; rfl)) (fun hb => absurd hb (by simp [hrl]))
      (fun hb => absurd hb (by simp [hfs])) ⟨fun _ => hdis, ?_, ?_⟩ ?_ ?_ hi.pendMode <;> cases o
    all_goals simp [bootTarget, McState.loading, McState.afterArm, McState.setupPath, McState.isEmulation, mode]
  | @load src q invokes =>
    generalize hp : s.mc.state = p at invokes
    have hfs : s.fs.busy = true → q = .launchFlash := fun hb => by
      rw [hi.fsBusy hb] at hp
      subst hp
      cases invokes
    cases invokes with
    | setup =>
      exact .of_enter (by decide) (hi.signals_off (by rw [hp]; rfl)) (fun _ => ⟨hi.before (by rw [hp]; rfl), rfl⟩) hfs
        ⟨nofun, fun _ => .inl rfl, nofun⟩ (fun _ => ⟨hi.setupMode (by rw [hp]; rfl), hi.nvSetup (by rw [hp]; rfl)⟩) nofun
        hi.pendMode
    | emulation =>
      exact .of_enter (by decide) (hi.signals_off (by rw [hp]; rfl)) (fun _ => ⟨hi.before (by rw [hp]; rfl), rfl⟩) hfs
        ⟨nofun, fun _ => .inl rfl, nofun⟩ nofun (fun _ => hi.emuMode (by rw [hp]; rfl)) hi.pendMode
  | flash at_record persisted =>
    obtain ⟨hrl, -⟩ := hi.idle_of_state (by rw [at_record]; rfl) (by rw [at_record]; decide)
    exact .of_enter (by decide) (hi.signals_off (by rw [at_record]; rfl)) (fun hb => absurd hb (by simp [hrl]))
      (fun _ => rfl) ⟨nofun, nofun, fun _ => hi.after (by rw [at_record]; rfl)⟩
      (fun _ => ⟨hi.setupMode (by rw [at_record]; rfl), (congrArg decodeMode persisted).trans (hi.nvSetup (by rw [at_record]; rfl))⟩)
      nofun hi.pendMode

/-- A load that begins has nothing copied yet, of the image that its mode serves (42_staging.md R221, R227). -/
theorem LoadInv.of_invoked {s : State} {src : Source} (hwf : s.params.wf = true) (ha : s.bus.armed = false)
    (hrl : s.rl = ⟨true, src, 0, BitVec.ofNat 17 (loadLength s.params src)⟩) (hsrc : src = .rom ↔ s.mc.mode ≠ .setup) :
    LoadInv s := by
  have hmax := Params.wf_loadLength hwf src
  have hlen : (BitVec.ofNat 17 (loadLength s.params src)).toNat = loadLength s.params src := Nat.mod_eq_of_lt (by omega)
  refine ⟨fun _ => ?_, fun _ i hlt => ?_, fun h => absurd h (by simp [ha]), fun _ => by rwa [hrl]⟩
  · rw [hrl]
    exact ⟨hlen, Nat.zero_le _⟩
  · rw [hrl] at hlt
    exact absurd hlt (Nat.not_lt_zero i)

/-- A control move keeps the load's invariant: BOOT comes before any load, and a state that invokes one finds none (R230). -/
theorem ControlMove.keeps_loadInv {s t : State} (h : ControlMove s t) (hmc : McInv s) (hwf : s.params.wf = true)
    (hi : LoadInv s) : LoadInv t := by
  have kept (hk : StoresKept s t) (hrl : t.rl = s.rl) (harm : t.bus = s.bus) (hflash : t.flash = s.flash)
      (hmode : t.mc.mode = s.mc.mode) : LoadInv t :=
    hi.congr hk hrl (by rw [harm]) hmode fun _ => imageByte_congr (by rw [hrl]) hk.params hflash
  cases h with
  | stay | flash => exact kept ⟨rfl, rfl, rfl, rfl, rfl⟩ rfl rfl rfl rfl
  | @go q m e nv idle transition regs => exact kept ⟨rfl, rfl, rfl, rfl, rfl⟩ rfl rfl rfl (by rw [regs]; rfl)
  | boot at_boot =>
    obtain ⟨hrl, -⟩ := hmc.idle_of_state (by rw [at_boot]; rfl) (by rw [at_boot]; decide)
    exact .of_unused hrl (hmc.before (by rw [at_boot]; rfl))
  | @load src q invokes =>
    generalize hp : s.mc.state = p at invokes
    cases invokes with
    | setup =>
      have hmode : s.mc.mode = .setup := hmc.setupMode (by rw [hp]; rfl)
      exact .of_invoked (src := .comm) hwf (hmc.before (by rw [hp]; rfl)) rfl (by simp [hmode])
    | emulation =>
      have hmode : s.mc.mode ≠ .setup := hmc.emuMode (by rw [hp]; rfl)
      exact .of_invoked (src := .rom) hwf (hmc.before (by rw [hp]; rfl)) rfl (by simp [hmode])

/-- A control move keeps the stager's invariant: a request begins at the staging region (42_staging.md R233). -/
theorem ControlMove.keeps_stagerInv {s t : State} (h : ControlMove s t) (hwf : s.params.wf = true) (hi : StagerInv s) :
    StagerInv t := by
  cases h with
  | flash =>
    have hstage := (Params.wf_geometry hwf).stage_in_flash
    have hsize := Params.wf_flashSize hwf
    have hoff : (BitVec.ofNat 32 s.params.stageOff).toNat = s.params.stageOff :=
      Nat.mod_eq_of_lt ((Nat.le_add_right _ _).trans_lt (hstage.trans_lt hsize))
    exact ⟨fun _ _ => ⟨hoff, rfl⟩, fun _ h hh => by cases hh⟩
  | stay | go | boot | load => exact hi.congr rfl rfl rfl

/-- A control move keeps the invariant. -/
theorem ControlMove.keeps_machineInv {s t : State} (h : ControlMove s t) (hi : MachineInv s) (hbus : BusInv t) :
    MachineInv t := by
  obtain ⟨hrest, hcnt, hhold⟩ := h.frame
  have hparams : t.params = s.params := by rw [hrest]
  have hprem : premises t = premises s := premises_congr hparams (by rw [hrest])
  refine ⟨hbus, h.keeps_mcInv hi.mc, hi.debounce.congr hcnt hhold hparams, fun hp => ?_, fun hp => ?_⟩ <;> rw [hprem] at hp
  · exact h.keeps_loadInv hi.mc (premises_wf hp) (hi.load hp)
  · exact h.keeps_stagerInv (premises_wf hp) (hi.stager hp)

/-! ## The debouncer -/

/-- The held ticks saturate at LONG_TICKS (44_button_debouncer.md R312). -/
theorem heldTicks_le {s : State} (hi : DebounceInv s) : heldTicks s ≤ s.params.longTicks := by
  unfold heldTicks saturate
  split
  · exact Nat.min_le_right _ _
  · exact hi.holdc

/-- A tick keeps CNT below DEBOUNCE_TICKS and HOLDC at most LONG_TICKS (10_state.md R55). -/
theorem dbTick_keeps_debounceInv {s : State} (hi : DebounceInv s) : DebounceInv (dbTick s) := by
  have hheld : (BitVec.ofNat 16 (heldTicks s)).toNat ≤ s.params.longTicks := by
    rw [BitVec.toNat_ofNat]
    exact (Nat.mod_le _ _).trans (heldTicks_le hi)
  rcases dbTick_cases s with ⟨-, h⟩ | ⟨-, hcnt, h⟩ | ⟨-, -, -, h⟩ | ⟨-, -, -, h⟩ <;> rw [h]
  · exact ⟨.inl rfl, hheld⟩
  · have hle : (s.db.cnt + 1).toNat ≤ s.db.cnt.toNat + 1 := by bv_omega
    exact ⟨.inr (hle.trans_lt hcnt), hheld⟩
  · exact ⟨.inl rfl, Nat.zero_le _⟩
  · exact ⟨.inl rfl, hheld⟩

/-- A tick keeps the invariant. -/
theorem dbTick_keeps_machineInv {s : State} (hi : MachineInv s) (hbus : BusInv (dbTick s)) : MachineInv (dbTick s) := by
  obtain ⟨hrest, hlp⟩ := dbTick_frame s
  have hk : StoresKept s (dbTick s) := by rw [hrest]; exact ⟨rfl, rfl, rfl, rfl, rfl⟩
  have hst : (dbTick s).storage = s.storage := by rw [hrest]
  have hprem := premises_congr hk.params hst
  refine ⟨hbus, ?_, dbTick_keeps_debounceInv hi.debounce, fun hp => ?_, fun hp => ?_⟩
  · exact hi.mc.congr (by rw [hrest]) hlp (by rw [hrest]) (by rw [hrest]; exact id) (by rw [hrest]) (by rw [hrest])
  · exact (hi.load (hprem ▸ hp)).congr hk (by rw [hrest]) (by rw [hrest]) (by rw [hrest])
      fun _ => imageByte_congr (by rw [hrest]) hk.params (by rw [hrest])
  · exact (hi.stager (hprem ▸ hp)).congr (by rw [hrest]) hk.params hst

/-! ## One step -/

/-- Every action keeps the invariant. -/
theorem runAction_keeps_machineInv {a : Action} {s t : State} (hi : MachineInv s) (h : runAction a s = .next t) :
    MachineInv t := by
  have hbus : BusInv t := runAction_keeps_busInv hi.bus h
  rcases runAction_cases a s t h with ⟨x, rfl, hx⟩ | ⟨rfl, ht⟩ | ⟨rfl, hx⟩ | ⟨rfl, hx⟩ | ⟨rfl, rfl⟩ | ⟨rfl, rfl⟩ | ⟨w, rfl, hx⟩ |
    ⟨rfl, rfl⟩ | ⟨hrest, -⟩
  · exact hi.of_busMove (by rw [(seqTurn_frame hx).1]) (runAction_keeps_armed (a := .seq x) hi.bus nofun nofun h) hbus
  · exact hi.of_busMove (by rw [ht, (luStep_frame s).1]) (runAction_keeps_armed (a := .lu) hi.bus nofun nofun h) hbus
  · exact rlStep_keeps_machineInv hi hbus hx
  · exact fsStep_keeps_machineInv hi hbus hx
  · exact (controlMove_of_mcStep s).keeps_machineInv hi hbus
  · exact dbTick_keeps_machineInv hi hbus
  · exact (controlMove_of_writeCmd hi.mc hx).keeps_machineInv hi hbus
  · exact machineInv_of_afterReset (afterReset_deviceReset hi.bus.bmProg hi.bus.brProg)
  · exact hi.of_busMove (by rw [hrest]) (by rw [hrest]) hbus

/-- Settles O55: a step takes a turn, which touches no part of the invariant, and runs one action. -/
theorem invariantKeptByEveryStep : Obligations.InvariantKeptByEveryStep := by
  intro s t hi h
  rw [step_eq] at h
  exact runAction_keeps_machineInv hi.after_takeTurn h

end Sys2Proof.Machine
end

section
/-! The schedule of the worked example (spec/41_bus_responder.md R206): each of its turns takes effect and leads to the next stage of the
access, so that the host samples the word of the window (spec/20_memory.md R104, R200). -/

namespace Sys2Proof.Machine

open Sys2Proof

/-! ## Turns that take effect -/

/-- The stores hold the programs of their fixed sizes (10_state.md R44). -/
theorem BusInv.programsSized {s : State} (hi : BusInv s) : programsSized s := by
  rw [Machine.programsSized, hi.bmProg, hi.brProg]
  exact ⟨rfl, rfl⟩

/-- A micro-word that may run, with its wait-condition met and its action ready, ends its step; a `raise` leaves SIG = 1
(40_bus_monitor.md R160, R166). -/
theorem exec_proceeds {i : Instr} {f : MicroFields} {s : State} (hf : microFields i f) (hm : mayRun i s)
    (hw : waitReady s.active f.wait s = true) (hr : actionReady i s = true) :
    ∃ t, exec i s = .next t ∧ endsStep s.active f.hold s t ∧ (i = .raise f → t.bus.sig = true) := by
  rcases hf with rfl | rfl | rfl | rfl
  · obtain ⟨t, he, -, -, -, hend, -⟩ := stepInstructionResultAndFrame f s hm hw
    exact ⟨t, he, hend, nofun⟩
  · obtain ⟨t, he, hsig, hend, -⟩ := raiseInstructionResultAndFrame f s hm hw
    exact ⟨t, he, hend, fun _ => hsig⟩
  · have hroom : s.bus.addrFifo.length < s.params.fifoDepth := by simpa [actionReady, fifoFull] using hr
    obtain ⟨t, he, -, -, -, -, -, -, hend, -⟩ := captureInstructionResultAndFrame f s hm hw hroom
    exact ⟨t, he, hend, nofun⟩
  · obtain ⟨w, rest, hq⟩ := List.exists_cons_of_ne_nil (l := s.bus.replyFifo) (by simpa [actionReady] using hr)
    obtain ⟨t, he, -, -, -, -, -, hend, -⟩ := driveInstructionResultAndFrame f s w rest hm hw hq
    exact ⟨t, he, hend, nofun⟩

/-- The words of BR_PROG are legal for the Bus Responder (41_bus_responder.md R181). -/
theorem responderInstr_legal (S : BitVec 6) (u : BitVec 3) : (responderInstr S u.toNat).legalFor .br = true := by
  obtain ⟨w, -, hw⟩ := brProgram_decodes S u.toNat u.isLt
  exact decodeFor_legal hw

theorem responderInstr_fields (S : BitVec 6) (u : Nat) : ∃ f, microFields (responderInstr S u) f := by
  unfold responderInstr
  split
  case h_4 => exact ⟨_, .inr (.inr (.inl rfl))⟩
  case h_6 => exact ⟨_, .inr (.inr (.inr rfl))⟩
  all_goals exact ⟨_, .inl rfl⟩

/-- A turn of the Bus Responder whose word is neither held nor stalled ends the word's step. -/
theorem seqTurn_responder_proceeds {s : State} {f : MicroFields} (hi : BusInv s) (ha : s.bus.armed = true)
    (free : s.bus.brHold = 0) (hf : microFields (responderInstr s.params.settleCycles s.bus.brUpc.toNat) f)
    (hw : waitReady .br f.wait s = true)
    (hr : actionReady (responderInstr s.params.settleCycles s.bus.brUpc.toNat) s = true) :
    ∃ t, seqTurn .br s = .next t ∧ endsStep .br f.hold s t := by
  obtain ⟨t, he, hend, -⟩ := exec_proceeds (s := { s with active := .br }) hf
    ⟨responderInstr_legal _ _, ha, free, hi.programsSized⟩ hw hr
  exact ⟨t, (seqTurn_responder hi.brProg).trans he, hend⟩

/-- A turn of the Bus Responder with cycles to hold counts one down (40_bus_monitor.md R160). -/
theorem seqTurn_responder_holds {s : State} (hi : BusInv s) (ha : s.bus.armed = true) (held : s.bus.brHold ≠ 0) :
    ∃ t, seqTurn .br s = .next t ∧ t.bus.brHold = s.bus.brHold - 1 ∧
      t.bus.brUpc = if s.bus.brHold - 1 = 0 then s.bus.brUpc + 1 else s.bus.brUpc := by
  obtain ⟨f, hf⟩ := responderInstr_fields s.params.settleCycles s.bus.brUpc.toNat
  obtain ⟨act, he⟩ := exec_eq_microStep (s := { s with active := .br }) hf (responderInstr_legal _ _)
  have he := he.trans (congrArg _ (microStep_held (x := .br) (s := { s with active := .br }) ha held))
  have hbus := holdCycle_responder_bus (s := { s with active := .br }) hi.brProg
  exact ⟨_, (seqTurn_responder hi.brProg).trans he, by rw [hbus], by rw [hbus]⟩

/-- A turn of a Bus Monitor whose wait-condition is met ends its word's step, and a `raise` leaves SIG = 1. -/
theorem seqTurn_monitor_proceeds {x : Sequencer} {s : State} {f : MicroFields} (hx : x ≠ .br) (hi : BusInv s)
    (ha : s.bus.armed = true) (hf : microFields (monitorInstr (upcOf x s)) f)
    (hw : waitReady x f.wait s = true) :
    ∃ t, seqTurn x s = .next t ∧ endsStep x f.hold s t ∧ (monitorInstr (upcOf x s) = .raise f → t.bus.sig = true) := by
  obtain ⟨-, hu⟩ := monitor_of_busInv hi hx
  obtain ⟨w, -, hd⟩ := bmProgram_decodes x hx (upcOf x s) hu
  have free : holdOf x s = 0 := by
    cases x with
    | br => exact absurd rfl hx
    | bm0 => exact hi.monitor0.2
    | bm1 => exact hi.monitor1.2
  have hr : actionReady (monitorInstr (upcOf x s)) s = true := by
    generalize upcOf x s = u
    unfold monitorInstr
    split <;> rfl
  obtain ⟨t, he, hend⟩ := exec_proceeds (s := { s with active := x }) hf
    ⟨decodeFor_legal hd, ha, by cases x <;> exact free, hi.programsSized⟩ (by cases x <;> exact hw) hr
  rw [seqTurn_monitor hx hi.bmProg hu]
  refine ⟨t, he, ?_, hend.2⟩
  cases x <;> exact hend.1

/-- The lookup unit leaves a word in REPLY_FIFO whenever one service is in flight (41_bus_responder.md R196, R198). -/
theorem luStep_replies {s : State} (ha : s.bus.armed = true) (hdepth : 0 < s.params.fifoDepth) (hf : inFlight s) :
    (luStep s).bus.replyFifo ≠ [] := by
  rcases hf with ⟨hq, hr⟩ | ⟨hq, hr⟩
  · rw [luStep_serves ha hq (by simpa [hr] using hdepth)]
    simp
  · rw [luStep_stalls (.inr (.inl hq)), hr]
    simp

/-- Only the drive takes a word from REPLY_FIFO (41_bus_responder.md R192). -/
theorem ResponderMove.keeps_reply {s : State} {b : Bus} (h : ResponderMove s b) (hu : s.bus.brUpc ≠ 5) :
    b.replyFifo = s.bus.replyFifo := by
  cases h with
  | drive upc => exact absurd upc hu
  | stall | hold | wake | turnIn | settle | capture | turnOut | keep | release => rfl

theorem Params.wf_fifoDepth {p : Params} (h : p.wf = true) : 0 < p.fifoDepth := by
  simp only [Params.wf, Bool.and_eq_true, decide_eq_true_eq, and_assoc] at h
  obtain ⟨-, -, -, -, -, -, -, -, -, -, -, -, hdepth, -⟩ := h
  exact hdepth

/-! ## Runs of queued turns -/

/-- Every state of P goes in n steps to one of Q. -/
def Leads (n : Nat) (P Q : State → Prop) : Prop := ∀ s, P s → ∃ t, Sys2Proof.core.run n s = .next t ∧ Q t

theorem run_one {s t : State} (h : step s = .next t) : Sys2Proof.core.run 1 s = .next t := by
  have hcore : Sys2Proof.core.step s = .next t := h
  simp only [Host.Core.run, hcore]

theorem Leads.one {P Q : State → Prop} (h : ∀ s, P s → ∃ t, step s = .next t ∧ Q t) : Leads 1 P Q := by
  intro s hs
  obtain ⟨t, ht, hq⟩ := h s hs
  exact ⟨t, run_one ht, hq⟩

theorem run_add {m n : Nat} {s t : State} (h : Sys2Proof.core.run m s = .next t) :
    Sys2Proof.core.run (m + n) s = Sys2Proof.core.run n t := by
  induction m generalizing s with
  | zero =>
    rw [Nat.zero_add]
    cases h
    rfl
  | succ m ih =>
    rw [Nat.succ_add]
    simp only [Host.Core.run] at h ⊢
    split at h
    · exact ih h
    · cases h
    · cases h

theorem Leads.trans {m n : Nat} {P Q R : State → Prop} (h : Leads m P Q) (h' : Leads n Q R) : Leads (m + n) P R := by
  intro s hs
  obtain ⟨t, ht, hq⟩ := h s hs
  obtain ⟨u, hu, hr⟩ := h' t hq
  exact ⟨u, (run_add ht).trans hu, hr⟩

/-! ## The stages of the access -/

/-- A stage of an access that began in s₀: the pair serves the image of s₀, the wires and samples are o, the actions as are queued, and
the Bus Responder is at UPC u with h cycles to hold. -/
structure Stage (s₀ : State) (o : Outside) (as : List Action) (u : BitVec 3) (h : BitVec 6) (s : State) : Prop where
  serving : Serving s₀ s
  out     : s.out = o
  queue   : s.turns.map (fun v => v.action) = as
  upc     : s.bus.brUpc = u
  hold    : s.bus.brHold = h

/-- No action touches the queue of turns (log 2). -/
theorem ActionFrame.turns_kept {a : Action} {s t : State} (h : ActionFrame a s t) : t.turns = s.turns := by
  cases h with
  | seq rest | rl rest | fs rest | mc rest | other rest => rw [rest]
  | deviceReset => rfl

/-- The first queued action is the one of the next turn. -/
theorem nextTurn_of_queue {a : Action} {as : List Action} {s : State} (h : s.turns.map (fun v => v.action) = a :: as) :
    (nextTurn s).action = a ∧ (takeTurn s).turns.map (fun v => v.action) = as := by
  obtain ⟨x, xs, hq, hx, hxs⟩ := List.map_eq_cons_iff.1 h
  rw [nextTurn_cons s x xs hq, takeTurn_turns, hq]
  exact ⟨hx, hxs⟩

/-- A queued action that is no device reset is the next step, and leads to the stage of what it leaves. -/
theorem Stage.next {s₀ s t : State} {o o' : Outside} {a : Action} {as : List Action} {u u' : BitVec 3} {h h' : BitVec 6}
    (hs : Stage s₀ o (a :: as) u h s) (ha : a ≠ .deviceReset) (hrun : runAction a (takeTurn s) = .next t)
    (hout : t.out = o') (hu : t.bus.brUpc = u') (hh : t.bus.brHold = h') :
    (step s = .next t ∧ (nextTurn s).action ≠ .deviceReset) ∧ Stage s₀ o' as u' h' t := by
  obtain ⟨hnext, hrest⟩ := nextTurn_of_queue hs.queue
  have hstep : step s = .next t := by rw [step_eq, hnext, hrun]
  have hno : (nextTurn s).action ≠ .deviceReset := hnext ▸ ha
  refine ⟨⟨hstep, hno⟩, hs.serving.step ⟨hstep, hno⟩, hout, ?_, hu, hh⟩
  rw [(runAction_frame hrun).turns_kept, hrest]

/-- The Bus Responder's own registers after the end of its step. -/
theorem endsStep_responder {h : BitVec 6} {s t : State} (hi : BusInv s) (hend : endsStep .br h s t) :
    t.bus.brUpc = (if h = 0 then s.bus.brUpc + 1 else s.bus.brUpc) ∧ t.bus.brHold = h := by
  obtain ⟨hown, -⟩ := hend
  have hlen : (progOf .br s).length = 8 := hi.programsSized.2
  rw [hlen] at hown
  by_cases h0 : h = 0
  · rw [if_pos h0] at hown ⊢
    refine ⟨BitVec.eq_of_toNat_eq ?_, hown.2.trans h0.symm⟩
    rw [BitVec.toNat_add]
    exact hown.1
  · rw [if_neg h0] at hown ⊢
    exact ⟨BitVec.eq_of_toNat_eq hown.1, hown.2⟩

/-- A queued turn of the Bus Responder whose word is neither held nor stalled. -/
theorem Stage.responder {s₀ s : State} {o : Outside} {as : List Action} {u : BitVec 3} {f : MicroFields}
    (hs : Stage s₀ o (.seq .br :: as) u 0 s) (hf : microFields (responderInstr s₀.params.settleCycles u.toNat) f)
    (hw : waitReady .br f.wait s = true) (hr : actionReady (responderInstr s₀.params.settleCycles u.toNat) s = true) :
    ∃ t, (step s = .next t ∧ (nextTurn s).action ≠ .deviceReset) ∧ ResponderMove (takeTurn s) t.bus ∧
      Stage s₀ o as (if f.hold = 0 then u + 1 else u) f.hold t := by
  have hi := hs.serving.inv.after_takeTurn
  rw [← hs.upc, ← hs.serving.stores.params] at hf hr
  obtain ⟨t, ht, hend⟩ := seqTurn_responder_proceeds (s := takeTurn s) hi hs.serving.armed hs.hold hf hw hr
  obtain ⟨hu, hh⟩ := endsStep_responder hi hend
  have hu : t.bus.brUpc = if f.hold = 0 then u + 1 else u := hs.upc ▸ hu
  have hout : t.out = o := by rw [(seqTurn_frame ht).1]; exact hs.out
  obtain ⟨hstep, hstage⟩ := hs.next (t := t) (a := .seq .br) nofun ht hout hu hh
  exact ⟨t, hstep, responderMove_of_seqTurn hi.brProg ht, hstage⟩

/-- A queued turn of the Bus Responder with h cycles to hold. -/
theorem Stage.hold_cycle {s₀ s : State} {o : Outside} {as : List Action} {u : BitVec 3} {h : BitVec 6}
    (hs : Stage s₀ o (.seq .br :: as) u h s) (hh : h ≠ 0) :
    ∃ t, step s = .next t ∧ Stage s₀ o as (if h - 1 = 0 then u + 1 else u) (h - 1) t := by
  have hi := hs.serving.inv.after_takeTurn
  obtain ⟨t, ht, hhold, hupc⟩ := seqTurn_responder_holds (s := takeTurn s) hi hs.serving.armed
    (show s.bus.brHold ≠ 0 from hs.hold ▸ hh)
  simp only [takeTurn_rest, hs.hold] at hhold hupc
  rw [hs.upc] at hupc
  have hout : t.out = o := by rw [(seqTurn_frame ht).1]; exact hs.out
  obtain ⟨⟨hstep, -⟩, hstage⟩ := hs.next (a := .seq .br) nofun ht hout hupc hhold
  exact ⟨t, hstep, hstage⟩

/-- Queued turns of the Bus Responder that count its hold down to the next UPC (41_bus_responder.md R186). -/
theorem Stage.hold_leads {s₀ : State} {o : Outside} {as : List Action} {u : BitVec 3} {h : BitVec 6} (hh : h ≠ 0) :
    Leads h.toNat (Stage s₀ o (List.replicate h.toNat (.seq .br) ++ as) u h) (Stage s₀ o as (u + 1) 0) := by
  obtain ⟨n, hn⟩ := Nat.exists_eq_succ_of_ne_zero fun h0 => hh (BitVec.eq_of_toNat_eq h0)
  rw [hn]
  induction n generalizing h with
  | zero =>
    obtain rfl : h = 1 := BitVec.eq_of_toNat_eq hn
    exact .one fun s hs => hs.hold_cycle hh
  | succ n ih =>
    have hdown : (h - 1).toNat = n + 1 := by bv_omega
    have hmore : h - 1 ≠ 0 := fun h0 => by
      rw [h0] at hdown
      cases hdown
    have hfirst : Leads 1 (Stage s₀ o (List.replicate (n + 2) (.seq .br) ++ as) u h)
        (Stage s₀ o (List.replicate (n + 1) (.seq .br) ++ as) u (h - 1)) := .one fun s hs => by
      obtain ⟨t, ht, hstage⟩ := Stage.hold_cycle hs hh
      rw [if_neg hmore] at hstage
      exact ⟨t, ht, hstage⟩
    have hall := hfirst.trans (ih hmore hdown)
    rwa [Nat.add_comm 1] at hall

/-- The settle word with its S hold cycles, 1 + S turns in all (41_bus_responder.md R186). -/
theorem Stage.settle_leads {s₀ : State} {o : Outside} {as : List Action} :
    Leads (1 + s₀.params.settleCycles.toNat)
      (Stage s₀ o (List.replicate (1 + s₀.params.settleCycles.toNat) (.seq .br) ++ as) 2 0) (Stage s₀ o as 3 0) := by
  have hword (bs : List Action) : Leads 1 (Stage s₀ o (.seq .br :: bs) 2 0)
      (Stage s₀ o bs (if s₀.params.settleCycles = 0 then 3 else 2) s₀.params.settleCycles) := .one fun s hs => by
    obtain ⟨t, ⟨hstep, -⟩, -, hstage⟩ := hs.responder (f := ⟨.none, .keep, true, .rnw, s₀.params.settleCycles⟩) (.inl rfl) rfl rfl
    exact ⟨t, hstep, hstage⟩
  by_cases hS : s₀.params.settleCycles = 0
  · have hword := hword as
    rw [if_pos hS, hS] at hword
    rw [hS]
    exact hword
  · have hword := hword (List.replicate s₀.params.settleCycles.toNat (.seq .br) ++ as)
    rw [if_neg hS] at hword
    have hall := hword.trans (Stage.hold_leads hS)
    rwa [← List.cons_append, ← List.replicate_succ, ← Nat.add_comm 1] at hall

/-- The lookup's turn, with the service in flight (41_bus_responder.md R189, R196). -/
theorem Stage.lookup {s₀ s : State} {o : Outside} {as : List Action} (hdepth : 0 < s₀.params.fifoDepth)
    (hs : Stage s₀ o (.lu :: as) 4 0 s) :
    ∃ t, step s = .next t ∧ t.bus.cap = s.bus.cap ∧ t.bus.replyFifo ≠ [] ∧ Stage s₀ o as 4 0 t := by
  have hi := hs.serving.inv.after_takeTurn
  obtain ⟨-, -, hflight, -⟩ : brPhase 4 (takeTurn s) := hi.phase_at hs.upc
  obtain ⟨hrest, hbus⟩ := luStep_frame (takeTurn s)
  have hreply := luStep_replies (s := takeTurn s) hs.serving.armed (hs.serving.stores.params ▸ hdepth) hflight
  obtain ⟨⟨hstep, -⟩, hstage⟩ := hs.next (a := .lu) (t := luStep (takeTurn s)) nofun rfl
    ((congrArg State.out hrest).trans hs.out) ((congrArg Bus.brUpc hbus).trans hs.upc)
    ((congrArg Bus.brHold hbus).trans hs.hold)
  exact ⟨_, hstep, (congrArg Bus.cap hbus).trans rfl, hreply, hstage⟩

/-- A queued turn of a Bus Monitor whose wait-condition is met: its UPC advances, the Bus Responder stands still, and a `raise` leaves
SIG = 1 (40_bus_monitor.md R162 to R166). -/
theorem Stage.monitor {s₀ s : State} {o : Outside} {as : List Action} {u : BitVec 3} {h : BitVec 6} {x : Sequencer}
    {f : MicroFields} (hs : Stage s₀ o (.seq x :: as) u h s) (hx : x ≠ .br) {n : Nat} (hn : upcOf x s = n)
    (hf : microFields (monitorInstr n) f) (hhold : f.hold = 0) (hw : waitReady x f.wait s = true) :
    ∃ t, step s = .next t ∧ upcOf x t = (n + 1) % 3 ∧ (monitorInstr n = .raise f → t.bus.sig = true) ∧
      Stage s₀ o as u h t := by
  have hi := hs.serving.inv.after_takeTurn
  obtain ⟨hprog, -⟩ := monitor_of_busInv hs.serving.inv hx
  subst hn
  have hsame : upcOf x (takeTurn s) = upcOf x s := by cases x <;> rfl
  obtain ⟨t, ht, ⟨hown, hother⟩, hsig⟩ := seqTurn_monitor_proceeds (s := takeTurn s) hx hi hs.serving.armed
    (hsame ▸ hf) (by cases x <;> exact hw)
  have hlen : progOf x (takeTurn s) = bmProgram := by
    rw [← hprog]
    cases x <;> rfl
  rw [if_pos hhold, hlen, hsame] at hown
  rw [hsame] at hsig
  obtain ⟨hu, hh⟩ := hother .br hx.symm
  have hout : t.out = o := by rw [(seqTurn_frame ht).1]; exact hs.out
  obtain ⟨⟨hstep, -⟩, hstage⟩ := hs.next (a := .seq x) nofun ht hout ((BitVec.eq_of_toNat_eq hu).trans hs.upc)
    (hh.trans hs.hold)
  exact ⟨t, hstep, hown.1, hsig, hstage⟩

/-! ## The access, stage after stage -/

/-- With the wires and samples o, slot k is selected with address a, and the other slot is not (20_memory.md R104 (b)). -/
def selectsAlone (k : Slot) (a : Word16) (o : Outside) : Prop :=
  ∀ s : State, s.out = o → Selected k a s ∧ csOf (otherSlot k) s = .high

/-- The access begins: HOST selects the slot, and nothing else moves (20_memory.md R100). -/
theorem Stage.assert {s₀ : State} {k : Slot} {a : Word16} {as : List Action} {u : BitVec 3} {h : BitVec 6}
    (hs : Stage s₀ s₀.out (.hostAssert k a :: as) u h s₀) (hk : csOf k s₀ = .high) (hother : csOf (otherSlot k) s₀ = .high) :
    ∃ t o, step s₀ = .next t ∧ Stage s₀ o as u h t ∧ upcOf (monitorOf k) t = upcOf (monitorOf k) s₀ ∧
      o.samples = s₀.out.samples ∧ selectsAlone k a o := by
  have heq : hostAssert k a (takeTurn s₀) = presentAddr k a (setCs k .low (takeTurn s₀)) := hostAssert_high hk
  have hbus : (hostAssert k a (takeTurn s₀)).bus = s₀.bus := by simp [heq]
  obtain ⟨⟨hstep, -⟩, hstage⟩ := hs.next (t := hostAssert k a (takeTurn s₀)) (a := .hostAssert k a) nofun rfl rfl
    (hbus ▸ hs.upc) (hbus ▸ hs.hold)
  refine ⟨_, _, hstep, hstage, ?_, ?_, fun s hs => ?_⟩
  · cases k <;> exact congrArg BitVec.toNat (by rw [hbus])
  · rw [heq]
    cases k <;> rfl
  · rw [heq] at hs
    cases k
    · exact ⟨⟨congrArg Outside.cs1 hs, congrArg Outside.addr1 hs⟩, (congrArg Outside.cs2 hs).trans hother⟩
    · exact ⟨⟨congrArg Outside.cs2 hs, congrArg Outside.addr2 hs⟩, (congrArg Outside.cs1 hs).trans hother⟩

section

variable {s₀ : State} {o : Outside} {k : Slot} {a : Word16} {as : List Action}

/-- The monitor of the selected slot sees its line low and raises SIG (40_bus_monitor.md R163 to R166). -/
theorem Stage.raise_leads (hsel : selectsAlone k a o) :
    Leads 2 (fun s => Stage s₀ o (.seq (monitorOf k) :: .seq (monitorOf k) :: as) 0 0 s ∧ upcOf (monitorOf k) s = 1)
      (fun s => Stage s₀ o as 0 0 s ∧ s.bus.sig = true) := by
  have hx : monitorOf k ≠ .br := by cases k <;> decide
  refine Leads.trans (m := 1) (n := 1) (Q := fun s => Stage s₀ o (.seq (monitorOf k) :: as) 0 0 s ∧ upcOf (monitorOf k) s = 2)
    (.one fun s ⟨hs, hu⟩ => ?_) (.one fun s ⟨hs, hu⟩ => ?_)
  · have hlow := (hsel s hs.out).1.low
    have hw : waitReady (monitorOf k) .pinLow s = true := by
      cases k <;> simpa [waitReady, csLevel, monitorOf] using hlow
    obtain ⟨t, hstep, hupc, -, hstage⟩ := hs.monitor hx hu (f := ⟨.pinLow, .keep, false, .nrnw, 0⟩) (.inl rfl) rfl hw
    exact ⟨t, hstep, hstage, hupc⟩
  · obtain ⟨t, hstep, -, hsig, hstage⟩ := hs.monitor hx hu (f := ⟨.none, .keep, false, .nrnw, 0⟩) (.inr (.inl rfl)) rfl rfl
    exact ⟨t, hstep, hstage, hsig rfl⟩

/-- The Bus Responder consumes SIG and turns the pins in (41_bus_responder.md R184, R185). -/
theorem Stage.wake_leads :
    Leads 2 (fun s => Stage s₀ o (.seq .br :: .seq .br :: as) 0 0 s ∧ s.bus.sig = true) (Stage s₀ o as 2 0) := by
  refine Leads.trans (m := 1) (n := 1) (Q := Stage s₀ o (.seq .br :: as) 1 0) (.one fun s ⟨hs, hsig⟩ => ?_) (.one fun s hs => ?_)
  · obtain ⟨t, ⟨hstep, -⟩, -, hstage⟩ := hs.responder (f := ⟨.sig, .keep, false, .nrnw, 0⟩) (.inl rfl) hsig rfl
    exact ⟨t, hstep, hstage⟩
  · obtain ⟨t, ⟨hstep, -⟩, -, hstage⟩ := hs.responder (f := ⟨.none, .input, true, .nrnw, 0⟩) (.inl rfl) rfl rfl
    exact ⟨t, hstep, hstage⟩

/-- The capture takes the address of the selected slot, in the window (41_bus_responder.md R187, R188). -/
theorem Stage.capture_leads (hdepth : 0 < s₀.params.fifoDepth) (hsel : selectsAlone k a o) :
    Leads 1 (Stage s₀ o (.seq .br :: as) 3 0)
      (fun s => Stage s₀ o as 4 0 s ∧ s.bus.cap = assembleAddr s₀.params.winHigh a) := by
  refine .one fun s hs => ?_
  obtain ⟨hdir, hctrl, ⟨hempty, -⟩, -⟩ : brPhase 3 s := hs.serving.inv.phase_at hs.upc
  have hroom : (!fifoFull s s.bus.addrFifo) = true := by
    rw [hempty, fifoFull, hs.serving.stores.params]
    simpa using hdepth.ne'
  obtain ⟨t, ⟨hstep, -⟩, hmove, hstage⟩ :=
    hs.responder (f := ⟨.none, .keep, false, .nrnw, 0⟩) (.inr (.inr (.inl rfl))) rfl hroom
  have hcap : t.bus.cap = capturedAddr (takeTurn s) :=
    (hmove.leaves_capture hs.serving.inv.after_takeTurn hs.upc (by rw [hstage.upc]; decide)).2
  obtain ⟨⟨hlow, haddr⟩, hother⟩ := hsel s hs.out
  have hpins : sampleAd (takeTurn s) = a := (sampleAd_selected (s := takeTurn s) hdir hctrl hlow hother).trans haddr
  have hhigh : s.bus.addrHi = s₀.params.winHigh :=
    (hs.serving.inv.addrHi hs.serving.armed).trans (congrArg Params.winHigh hs.serving.stores.params)
  exact ⟨t, hstep, hstage, hcap.trans (congrArg₂ assembleAddr hhigh hpins)⟩

/-- The lookup, the pins turned out and the drive bring the service to the data-hold (41_bus_responder.md R189, R190, R196). -/
theorem Stage.drive_leads {c : Word32} (hdepth : 0 < s₀.params.fifoDepth) :
    Leads 3 (fun s => Stage s₀ o (.lu :: .seq .br :: .seq .br :: as) 4 0 s ∧ s.bus.cap = c)
      (fun s => Stage s₀ o as 6 0 s ∧ s.bus.cap = c) := by
  refine Leads.trans (m := 1) (n := 2)
    (Q := fun s => Stage s₀ o (.seq .br :: .seq .br :: as) 4 0 s ∧ s.bus.cap = c ∧ s.bus.replyFifo ≠ [])
    (.one fun s ⟨hs, hc⟩ => ?_) (Leads.trans (m := 1) (n := 1)
    (Q := fun s => Stage s₀ o (.seq .br :: as) 5 0 s ∧ s.bus.cap = c ∧ s.bus.replyFifo ≠ [])
    (.one fun s ⟨hs, hc, hr⟩ => ?_) (.one fun s ⟨hs, hc, hr⟩ => ?_))
  · obtain ⟨t, hstep, hcap, hreply, hstage⟩ := hs.lookup hdepth
    exact ⟨t, hstep, hstage, hcap.trans hc, hreply⟩
  · obtain ⟨t, hstep, hmove, hstage⟩ := hs.responder (f := ⟨.none, .output, false, .nrnw, 0⟩) (.inl rfl) rfl rfl
    have hreply := hmove.keeps_reply (show s.bus.brUpc ≠ 5 by rw [hs.upc]; decide)
    have hcap := (step_service hs.serving hstep (by rw [hs.upc]; decide)).1
    exact ⟨t, hstep.1, hstage, hcap.trans hc, hreply ▸ hr⟩
  · have hready : (!s.bus.replyFifo.isEmpty) = true := by simpa using hr
    obtain ⟨t, hstep, -, hstage⟩ := hs.responder (f := ⟨.reply, .keep, true, .nrw, 0⟩) (.inr (.inr (.inr rfl))) hready hready
    have hcap := (step_service hs.serving hstep (by rw [hs.upc]; decide)).1
    exact ⟨t, hstep.1, hstage, hcap.trans hc⟩

/-- A HostSample in the data-hold returns the word the access is promised (20_memory.md R101, 41_bus_responder.md R191, R200). -/
theorem Stage.sample_leads (hserve : Serving s₀ s₀) (hp : premises s₀ = true) :
    Leads 1 (fun s => Stage s₀ o (.hostSample :: as) 6 0 s ∧ s.bus.cap = assembleAddr s₀.params.winHigh a)
      (fun t => t.out.samples = ⟨promisedWord s₀ a, true⟩ :: o.samples ∧ ∀ b, ramByte t b = ramByte s₀ b) := by
  refine .one fun s ⟨hs, hcap⟩ => ?_
  have hi := hs.serving.inv.after_takeTurn
  obtain ⟨hnext, -⟩ := nextTurn_of_queue hs.queue
  have hstep : step s = .next (hostSample (takeTurn s)) := by rw [step_eq, hnext, runAction]
  have hstores := hs.serving.stores.trans (takeTurn_storesKept s)
  have hword : ramRead16 (takeTurn s) s.bus.cap = promisedWord s₀ a := by
    rw [hcap, promisedWord_eq hp hserve, hstores.ramRead16_eq]
  have hsees : hostSees (takeTurn s) = ⟨promisedWord s₀ a, true⟩ :=
    (hostSees_dataValid hi (.inl hs.upc)).trans (congrArg (Sample.mk · true) hword)
  exact ⟨_, hstep, congrArg₂ List.cons hsees (congrArg Outside.samples hs.out),
    fun b => ramByte_congr s₀ _ b hstores.ram hstores.resets⟩

end

/-- What the moment before an access is (20_memory.md R104 (a), (b), (c)). -/
theorem readyForAccess_iff (k : Slot) (s : State) :
    readyForAccess k s = true ↔
      s.bus.armed = true ∧ csOf k s = .high ∧ csOf (otherSlot k) s = .high ∧ upcOf (monitorOf k) s = 1 ∧
        holdOf (monitorOf k) s = 0 ∧ s.bus.brUpc = 0 ∧ s.bus.brHold = 0 ∧ s.bus.sig = false := by
  simp [readyForAccess, and_assoc]

/-- Settles O58: the stages of the schedule, one after the other. -/
theorem scheduledReadReturnsTheWord : Obligations.ScheduledReadReturnsTheWord := by
  intro s k a rest hinv hp hready hqueue
  obtain ⟨harmed, hk, hother, hmon, -, hupc, hhold, -⟩ := (readyForAccess_iff k s).1 hready
  have hserve : Serving s s := ⟨hinv.bus, harmed, .refl s⟩
  have hdepth := Params.wf_fifoDepth (premises_wf hp)
  have hs : Stage s s.out (.hostAssert k a :: .seq (monitorOf k) :: .seq (monitorOf k) :: .seq .br :: .seq .br ::
      (List.replicate (1 + s.params.settleCycles.toNat) (.seq .br) ++
        .seq .br :: .lu :: .seq .br :: .seq .br :: .hostSample :: rest.map (fun u => u.action))) 0 0 s :=
    ⟨hserve, rfl, by rw [hqueue]; simp [scheduledRead], hupc, hhold⟩
  obtain ⟨t, o, hstep, hstage, hmon', hsamples, hsel⟩ := hs.assert hk hother
  obtain ⟨u, hrun, hseen, hram⟩ := (Stage.raise_leads hsel).trans (Stage.wake_leads.trans (Stage.settle_leads.trans
    ((Stage.capture_leads hdepth hsel).trans ((Stage.drive_leads hdepth).trans (Stage.sample_leads hserve hp)))))
    t ⟨hstage, hmon'.trans hmon⟩
  refine ⟨u, ?_, hsamples ▸ hseen, hram⟩
  have hlen : (scheduledRead k a s.params.settleCycles.toNat).length =
      1 + (2 + (2 + (1 + s.params.settleCycles.toNat + (1 + (3 + 1))))) := by
    simp only [scheduledRead, List.length_append, List.length_cons, List.length_nil, List.length_replicate]
    omega
  rw [hlen, run_add (run_one hstep), hrun]


end Sys2Proof.Machine
end

section
/-! The RAM Loader (spec/42_staging.md R220 to R231): what its step is in each case, the load as a whole, and that an armed image stays
until a device reset. -/

namespace Sys2Proof.Machine

open Sys2Proof

/-! ## One step of the loader -/

theorem rlStep_of_more {s : State} (busy : s.rl.busy = true) (more : s.rl.idx.toNat < s.rl.len.toNat) :
    rlStep s = rlCopyStep s := by
  rw [rlStep, if_neg (by simp [busy]), if_pos more]

theorem rlStep_of_done {s : State} (busy : s.rl.busy = true) (done : s.rl.idx = s.rl.len) :
    rlStep s = .next (armStep s) := by
  rw [rlStep, if_neg (by simp [busy]), if_neg (by simp [done]), if_pos done]

/-- Settles O22: the loader's step at RL_IDX = RL_LEN is the ARM step. -/
theorem armStepArmsThePair : Obligations.ArmStepArmsThePair := by
  intro s busy done ha
  rw [rlStep_of_done busy done]
  rcases armStep_cases s with ⟨harmed, -⟩ | ⟨-, h⟩
  · exact absurd harmed (by simp [ha])
  · exact congrArg _ h

/-- A load that finds the pair armed is fatal, at a copy step and at the ARM step alike (42_staging.md R222, R228). -/
theorem rlStep_rearm {s : State} (busy : s.rl.busy = true) (hle : s.rl.idx.toNat ≤ s.rl.len.toNat)
    (ha : s.bus.armed = true) : rlStep s = .next (fatal .busArmError s) := by
  rcases Nat.lt_or_eq_of_le hle with more | done
  · rw [rlStep_of_more busy more, rlCopyStep, if_pos ha]
  · rw [rlStep_of_done busy (BitVec.eq_of_toNat_eq done), armStep, if_pos ha]

/-- Settles O23: both steps of the loader are the one fatal operation, which writes no memory. -/
theorem rearmIsFatal : Obligations.RearmIsFatal := fun _ busy hle ha =>
  ⟨_, rlStep_rearm busy hle ha, rfl, rfl, rfl, rfl, rfl, rfl, rfl, fun _ => rfl, fun _ => rfl⟩

/-! ## The copy step -/

/-- A load of the right length runs into the disarmed pair (42_staging.md R221, R222). -/
structure Loading (s : State) : Prop where
  wf       : s.params.wf = true
  busy     : s.rl.busy = true
  disarmed : s.bus.armed = false
  length   : s.rl.len.toNat = loadLength s.params s.rl.src

/-- The state after the image's byte RL_IDX is copied to its place in the window (42_staging.md R223). -/
def byteCopied (s : State) : State :=
  { ramWrite (loadAddr s s.rl.idx.toNat) (imageByte s s.rl.idx.toNat) s with rl := { s.rl with idx := s.rl.idx + 1 } }

theorem Loading.len_le {s : State} (h : Loading s) : s.rl.len.toNat ≤ 65536 :=
  h.length ▸ Params.wf_loadLength h.wf s.rl.src

theorem Loading.rlStep_copies {s : State} (h : Loading s) (more : s.rl.idx.toNat < s.rl.len.toNat) :
    rlStep s = .next (byteCopied s) := by
  obtain ⟨b, hb⟩ := loadByte_ok (Params.wf_geometry h.wf) (h.length ▸ more)
  obtain rfl := loadByte_eq_imageByte hb
  rw [rlStep_of_more h.busy more, rlCopyStep, if_neg (by simp [h.disarmed]), hb, byteCopied]

theorem Loading.idx_byteCopied {s : State} (h : Loading s) (more : s.rl.idx.toNat < s.rl.len.toNat) :
    (byteCopied s).rl.idx.toNat = s.rl.idx.toNat + 1 := by
  have hlen := h.len_le
  rw [byteCopied, BitVec.toNat_add_of_lt (by simp; omega)]
  rfl

theorem Loading.ramByte_byteCopied {s : State} (h : Loading s) (more : s.rl.idx.toNat < s.rl.len.toNat) (a : Nat) :
    ramByte (byteCopied s) a =
      if a = s.params.ramWinBase.toNat + s.rl.idx.toNat then imageByte s s.rl.idx.toNat else ramByte s a := by
  rw [← loadAddr_toNat h.wf (more.trans_le h.len_le)]
  exact ramByte_ramWrite _ _ s a

theorem Loading.after_copy {s : State} (h : Loading s) : Loading (byteCopied s) :=
  ⟨h.wf, h.busy, h.disarmed, h.length⟩

/-- Settles O21: the copied byte is the image's, and the write of one RAM byte leaves the others. -/
theorem copyStepCopiesOneByte : Obligations.CopyStepCopiesOneByte := by
  intro s hp busy disarmed more length
  have h : Loading s := ⟨premises_wf hp, busy, disarmed, length⟩
  exact ⟨_, h.rlStep_copies more, (h.ramByte_byteCopied more _).trans (if_pos rfl),
    fun a ha => (h.ramByte_byteCopied more a).trans (if_neg ha), fun _ => rfl, h.idx_byteCopied more, rfl⟩

/-! ## A whole load -/

theorem repeatStep_succ {agent : State → Result} {s t : State} (h : agent s = .next t) (n : Nat) :
    repeatStep agent (n + 1) s = repeatStep agent n t := by
  rw [repeatStep, h]

/-- The rest of a load with n bytes to go ends armed, with these bytes of the image in their places and nothing else in RAM changed
(42_staging.md R224, R228). -/
theorem Loading.completes {n : Nat} {s : State} (h : Loading s) (hn : s.rl.idx.toNat + n = s.rl.len.toNat) :
    ∃ t, repeatStep rlStep (n + 1) s = .next t ∧
      (∀ i, s.rl.idx.toNat ≤ i → i < s.rl.len.toNat →
        ramByte t (s.params.ramWinBase.toNat + i) = imageByte s i) ∧
      (∀ a, a < s.params.ramWinBase.toNat + s.rl.idx.toNat ∨ s.params.ramWinBase.toNat + s.rl.len.toNat ≤ a →
        ramByte t a = ramByte s a) ∧
      t.flash = s.flash ∧ t.bus.armed = true ∧ t.bus.addrHi = s.params.winHigh ∧ t.rl.busy = false ∧ t.rl.src = s.rl.src := by
  induction n generalizing s with
  | zero =>
    have hstep := armStepArmsThePair s h.busy (BitVec.eq_of_toNat_eq hn) h.disarmed
    exact ⟨_, repeatStep_succ hstep 0, fun i hlo hhi => by omega, fun _ _ => rfl, rfl, rfl, rfl, rfl, rfl⟩
  | succ n ih =>
    have more : s.rl.idx.toNat < s.rl.len.toNat := by omega
    have hidx := h.idx_byteCopied more
    obtain ⟨t, hrun, himage, hkept, hrest⟩ := ih h.after_copy (by rw [hidx]; exact (Nat.succ_add_eq_add_succ _ n).trans hn)
    rw [hidx] at himage hkept
    refine ⟨t, (repeatStep_succ (h.rlStep_copies more) (n + 1)).trans hrun, fun i hlo hhi => ?_, fun a ha => ?_, hrest⟩
    · rcases Nat.eq_or_lt_of_le hlo with rfl | hlt
      · exact (hkept _ (.inl (Nat.lt_succ_self _))).trans ((h.ramByte_byteCopied more _).trans (if_pos rfl))
      · exact himage i hlt hhi
    · refine (hkept a (ha.imp_left Nat.lt_succ_of_lt)).trans ((h.ramByte_byteCopied more a).trans (if_neg ?_))
      omega

/-- An invocation starts a load of the right length (42_staging.md R221). -/
theorem loading_rlInvoke {src : Source} {s : State} (hwf : s.params.wf = true) (idle : s.rl.busy = false)
    (ha : s.bus.armed = false) :
    Loading (rlInvoke src s) ∧
      rlInvoke src s = { s with rl := ⟨true, src, 0, BitVec.ofNat 17 (loadLength s.params src)⟩ } := by
  have hmax := Params.wf_loadLength hwf src
  rcases rlInvoke_cases src s with ⟨hb, -⟩ | ⟨-, h⟩
  · exact absurd hb (by simp [idle])
  · refine ⟨?_, h⟩
    rw [h]
    exact ⟨hwf, rfl, ha, Nat.mod_eq_of_lt (by omega)⟩

/-- Settles O24: from the invocation on all RL_LEN bytes are to go. -/
theorem wholeLoadCopiesTheImageThenArms : Obligations.WholeLoadCopiesTheImageThenArms := by
  intro src s hp idle ha
  obtain ⟨h, hinvoke⟩ := loading_rlInvoke (src := src) (premises_wf hp) idle ha
  have hlen := h.length
  rw [hinvoke] at h hlen ⊢
  obtain ⟨t, hrun, himage, hkept, hflash, harmed, hhi, hbusy, hsrc⟩ := h.completes (n := loadLength s.params src)
    (by rw [hlen]; exact Nat.zero_add _)
  rw [hlen] at himage hkept
  exact ⟨t, hrun, fun i hi => himage i (Nat.zero_le i) hi, hkept, fun o => flashByte_congr s t o hflash, harmed, hhi, hbusy,
    hsrc⟩

/-! ## The armed image -/

/-- ARMED and ADDR_HI, which RL and a device reset alone write (10_state.md R68). -/
def armOf (s : State) : Bool × Word16 := (s.bus.armed, s.bus.addrHi)

/-- No micro-word writes ARMED or ADDR_HI. -/
theorem seqTurn_keeps_arm {x : Sequencer} {s t : State} (h : seqTurn x s = .next t) : armOf t = armOf s := by
  obtain ⟨w, i, -, hi, he⟩ := seqTurn_next x s t h
  have hl := decodeFor_legal hi
  cases i with
  | step f | raise f | capture f | drive f =>
    obtain ⟨-, rfl⟩ := runMicro_next _ _ _ _ _ _ he
    exact microStep_keeps armOf (fun n u => by simp [armOf]) (fun n u => by simp [armOf]) (by simp [armOf])
  | nop | launch m | handoff => cases x <;> cases hl

/-- While the pair is armed every action but a device reset leaves ARMED and ADDR_HI as they are (42_staging.md R229). -/
theorem runAction_armed_keeps_arm {a : Action} {s t : State} (ha : s.bus.armed = true) (hr : a ≠ .deviceReset)
    (h : runAction a s = .next t) : armOf t = armOf s := by
  have hf := runAction_frame h
  cases hf with
  | seq => exact seqTurn_keeps_arm h
  | rl => rw [armOf, (rlStep_armed ha h).1, armOf]
  | fs rest | mc rest | other rest => rw [rest]; rfl
  | deviceReset => exact absurd rfl hr

/-- Settles O43: taking the turn touches neither the bus engine nor RAM, and the action keeps both. -/
theorem armedImageStaysUntilReset : Obligations.ArmedImageStaysUntilReset := by
  intro s t ha h hr
  rw [step_eq] at h
  obtain ⟨harmed, hhi⟩ := Prod.mk.inj (runAction_armed_keeps_arm (s := takeTurn s) ha hr h)
  have hk := (takeTurn_storesKept s).trans (runAction_storesKept (s := takeTurn s) ha hr h)
  exact ⟨harmed.trans ha, hhi, fun a => ramByte_congr s t a hk.ram hk.resets⟩

end Sys2Proof.Machine
end

section
/-! The stager's buffers (spec/42_staging.md R238, R239): the byte swap and the padding of a chunk to whole pages. -/

namespace Sys2Proof.Machine

open Sys2Proof

/-! ## The byte swap -/

theorem swap16_swap16 (bytes : List Byte) : swap16 (swap16 bytes) = bytes := by
  induction bytes using swap16.induct with
  | case1 a b rest ih => simp [swap16, ih]
  | case2 a => rfl
  | case3 => rfl

theorem getElem?_swap16 {bytes : List Byte} {i : Nat} (h : i < bytes.length / 2) :
    (swap16 bytes)[2 * i]? = bytes[2 * i + 1]? ∧ (swap16 bytes)[2 * i + 1]? = bytes[2 * i]? := by
  induction bytes using swap16.induct generalizing i with
  | case1 a b rest ih =>
    cases i with
    | zero => exact ⟨rfl, rfl⟩
    | succ i => exact ih (by simp only [List.length_cons] at h; omega)
  | case2 a => simp at h
  | case3 => simp at h

/-- The swap works word by word, so it can be cut at a word boundary. -/
theorem swap16_append {front : List Byte} (h : 2 ∣ front.length) (back : List Byte) :
    swap16 (front ++ back) = swap16 front ++ swap16 back := by
  induction front using swap16.induct with
  | case1 a b rest ih => simp [swap16, ih ((Nat.dvd_add_left (Nat.dvd_refl 2)).1 h)]
  | case2 a => simp at h
  | case3 => rfl

/-! ## The padding -/

/-- PAGE is a power of two that is at least 2 (00_scope.md R10). -/
theorem Params.wf_page_even {p : Params} (h : p.wf = true) : 2 ∣ p.page := by
  simp only [Params.wf, Bool.and_eq_true, decide_eq_true_eq, and_assoc, isPowerOfTwo, beq_iff_eq] at h
  obtain ⟨-, hpow, htwo, -⟩ := h
  rw [hpow]
  refine dvd_pow_self 2 fun hzero => ?_
  rw [hzero] at hpow
  omega

/-- Every page multiple that holds n bytes is at least the padded size. -/
theorem FlashGeometry.paddedSize_le {p : Params} (g : FlashGeometry p) {n q : Nat} (hq : p.page ∣ q) (h : n ≤ q) :
    paddedSize p n ≤ q := by
  obtain ⟨k, rfl⟩ := hq
  rw [paddedSize_eq]
  exact Nat.mul_le_mul_left _ ((ceilDiv_le_iff_le_mul g.page_pos).2 h)

theorem FlashGeometry.paddedSize_of_dvd {p : Params} (g : FlashGeometry p) {n : Nat} (h : p.page ∣ n) :
    paddedSize p n = n :=
  Nat.le_antisymm (g.paddedSize_le h (Nat.le_refl n)) (g.le_paddedSize n)

/-- A multiple of PAGE needs no padding (42_staging.md R239). -/
theorem FlashGeometry.padChunk_of_dvd {p : Params} (g : FlashGeometry p) {chunk : List Byte} (h : p.page ∣ chunk.length) :
    padChunk p chunk = chunk := by
  simp [padChunk, g.paddedSize_of_dvd h]

/-- Whole pages before the rest stay as they are when the whole is padded. -/
theorem FlashGeometry.padChunk_append {p : Params} (g : FlashGeometry p) {front : List Byte} (h : p.page ∣ front.length)
    (back : List Byte) : padChunk p (front ++ back) = front ++ padChunk p back := by
  have hsize : paddedSize p (front ++ back).length = front.length + paddedSize p back.length := by
    obtain ⟨k, hk⟩ := h
    rw [List.length_append, hk, paddedSize, paddedSize, Nat.add_assoc, Nat.add_sub_assoc (by have := g.page_pos; omega),
      Nat.mul_add_div g.page_pos, Nat.add_mul, Nat.mul_comm k]
  rw [padChunk, hsize, List.length_append, Nat.add_sub_add_left, List.append_assoc, padChunk]

theorem getElem?_padChunk_chunk {p : Params} {chunk : List Byte} {i : Nat} (h : i < chunk.length) :
    (padChunk p chunk)[i]? = chunk[i]? :=
  List.getElem?_append_left h

theorem FlashGeometry.getElem?_padChunk_filler {p : Params} (g : FlashGeometry p) {chunk : List Byte} {i : Nat}
    (hlo : chunk.length ≤ i) (hhi : i < (padChunk p chunk).length) : (padChunk p chunk)[i]? = some p.filler := by
  rw [g.length_padChunk] at hhi
  rw [padChunk, List.getElem?_append_right hlo, List.getElem?_replicate, if_pos (by omega)]

/-- Settles O27: the swap's own laws, and PAGE is even. -/
theorem byteSwapIsAnInvolution : Obligations.ByteSwapIsAnInvolution := by
  refine ⟨fun buf _ => ⟨length_swap16 buf, fun i hi => getElem?_swap16 hi, swap16_swap16 buf⟩, fun p chunk hwf => ?_⟩
  rw [(Params.wf_geometry hwf).length_padChunk]
  exact Nat.mod_eq_zero_of_dvd ((Params.wf_page_even hwf).trans (page_dvd_paddedSize p chunk.length))

/-- Settles O28: the padded size is the least page multiple, and the swap exchanges an odd chunk's last byte with the first
FILLER. -/
theorem paddingIsTheLeastPageMultiple : Obligations.PaddingIsTheLeastPageMultiple := by
  intro p chunk hwf
  have g := Params.wf_geometry hwf
  have hlen := g.length_padChunk chunk
  have hle : chunk.length ≤ (padChunk p chunk).length := hlen ▸ g.le_paddedSize chunk.length
  refine ⟨_, rfl, ?_, hle, fun q hq hc => ?_, fun i => getElem?_padChunk_chunk, fun i => g.getElem?_padChunk_filler,
    fun h => g.padChunk_of_dvd (Nat.dvd_of_mod_eq_zero h), fun hodd => ?_⟩
  · rw [hlen]
    exact Nat.mod_eq_zero_of_dvd (page_dvd_paddedSize p chunk.length)
  · rw [hlen]
    exact g.paddedSize_le (Nat.dvd_of_mod_eq_zero hq) hc
  · have heven : 2 ∣ (padChunk p chunk).length :=
      hlen ▸ (Params.wf_page_even hwf).trans (page_dvd_paddedSize p chunk.length)
    obtain ⟨k, hk⟩ : ∃ k, chunk.length = 2 * k + 1 := ⟨chunk.length / 2, by omega⟩
    obtain ⟨hlast, hfirst⟩ := getElem?_swap16 (bytes := padChunk p chunk) (i := k) (by omega)
    rw [hk, Nat.add_sub_cancel, hlast, hfirst]
    exact ⟨g.getElem?_padChunk_filler (by omega) (by omega), getElem?_padChunk_chunk (by omega)⟩

end Sys2Proof.Machine
end

section
/-! A flash request (spec/42_staging.md R232 to R249): its invocation, the start step's checks, a chunk step that programs one sector, and
the chunk steps of a whole request. -/

namespace Sys2Proof.Machine

open Sys2Proof

/-! ## The invocation -/

/-- Settles O25: the two cases of an invocation with no request running. -/
theorem flashRequestInvocation : Obligations.FlashRequestInvocation := by
  intro d s idle
  rcases fsInvoke_cases d s with ⟨hbusy, -⟩ | ⟨-, he, h⟩ | ⟨-, he, h⟩
  · exact absurd hbusy (by simp [idle])
  · exact ⟨fun _ => h, fun hn => absurd he (by simp [hn])⟩
  · exact ⟨fun hn => absurd he (by simp [hn]), fun _ => h⟩

/-! ## STORAGE -/

theorem stOpen_eq {name file : List Byte} {s : State} (opens : s.draw.opens = true)
    (hfile : lookupFile name s.storage = some file) : stOpen name s = some (⟨name⟩, file.length) := by
  rw [stOpen, if_pos opens, hfile, Option.map_some]

theorem stOpen_fails {name : List Byte} {s : State} (h : s.draw.opens = false ∨ lookupFile name s.storage = none) :
    stOpen name s = none := by
  rcases h with h | h <;> simp [stOpen, h]

theorem stRead_eq {h : Handle} {file : List Byte} {s : State} (reads : s.draw.reads = true)
    (hfile : lookupFile h.name s.storage = some file) (pos n : Nat) :
    stRead h pos n s = some ((file.drop pos).take n) := by
  rw [stRead, if_pos reads, hfile, Option.map_some]

theorem stRead_fails {s : State} (h : Handle) (pos n : Nat) (reads : s.draw.reads = false) : stRead h pos n s = none :=
  if_neg (by simp [reads])

/-! ## The start step -/

theorem fsStep_of_closed {s : State} (busy : s.fs.busy = true) (closed : s.fs.handle = none) :
    fsStep s = .next (fsStartStep s) := by
  rw [fsStep, if_neg (by simp [busy]), closed]

theorem headerLength_iff (p : Params) (n : Nat) :
    headerLength p n = true ↔ 4 < n ∧ (n - 4) % p.sector = 0 := by
  simp [headerLength]

/-- The first four bytes of a file longer than four are a header to skip exactly if they are 0 (42_staging.md R235). -/
theorem all_zero_take_four {file : List Byte} (h : 4 < file.length) :
    (file.take 4).all (fun b => b == 0) = true ↔ file.take 4 = [0, 0, 0, 0] := by
  have hlen : (file.take 4).length = 4 := by rw [List.length_take]; omega
  rw [show ([0, 0, 0, 0] : List Byte) = List.replicate 4 0 from rfl, List.eq_replicate_iff, List.all_eq_true]
  simp only [hlen, beq_iff_eq, true_and]

/-- The pending file is open: its handle and its length are in the FS registers (42_staging.md R234). -/
def fileOpened (file : List Byte) (s : State) : State :=
  { s with fs := { s.fs with handle := some ⟨s.mc.pendFile⟩, len := BitVec.ofNat 32 file.length } }

/-- How many bytes of the file the start step skips (42_staging.md R235, R236). -/
def headerSkip (p : Params) (file : List Byte) : Nat :=
  if 4 < file.length ∧ (file.length - 4) % p.sector = 0 ∧ file.take 4 = [0, 0, 0, 0] then 4 else 0

/-- A request that ends with no handle held before its step holds none after it. -/
theorem fsFinish_of_closed {s : State} (closed : s.fs.handle = none) (r : FsResult) (t : State) :
    fsFinish r t = { t with fs := { t.fs with busy := false, handle := s.fs.handle, result := r } } := by
  rw [closed, fsFinish]

section

variable {s : State} {file : List Byte}

theorem fsStartStep_misaligned (h : s.fs.off.toNat % s.params.sector ≠ 0) :
    fsStartStep s = fsFinish .alignmentError s :=
  if_pos h

theorem fsStartStep_unopened (aligned : s.fs.off.toNat % s.params.sector = 0)
    (h : s.draw.opens = false ∨ lookupFile s.mc.pendFile s.storage = none) : fsStartStep s = fsFinish .storageError s := by
  rw [fsStartStep, if_neg (not_not.2 aligned), stOpen_fails h]

theorem fsStartStep_unread (aligned : s.fs.off.toNat % s.params.sector = 0) (opens : s.draw.opens = true)
    (hfile : lookupFile s.mc.pendFile s.storage = some file)
    (header : 4 < file.length ∧ (file.length - 4) % s.params.sector = 0) (reads : s.draw.reads = false) :
    fsStartStep s = fsFinish .storageError (fileOpened file s) := by
  have hread : stRead ⟨s.mc.pendFile⟩ 0 4 (fileOpened file s) = none := stRead_fails _ 0 4 reads
  rw [fileOpened] at hread
  simp only [fsStartStep, if_neg (not_not.2 aligned), stOpen_eq opens hfile, if_pos ((headerLength_iff _ _).2 header), hread,
    fileOpened]

theorem fsStartStep_sized (aligned : s.fs.off.toNat % s.params.sector = 0) (opens : s.draw.opens = true)
    (hfile : lookupFile s.mc.pendFile s.storage = some file)
    (h : ¬(4 < file.length ∧ (file.length - 4) % s.params.sector = 0) ∨ s.draw.reads = true) :
    fsStartStep s = fsSizeCheck (fsSetPos (headerSkip s.params file) (fileOpened file s)) := by
  by_cases header : 4 < file.length ∧ (file.length - 4) % s.params.sector = 0
  · have reads := h.resolve_left (not_not.2 header)
    have hread : stRead ⟨s.mc.pendFile⟩ 0 4 (fileOpened file s) = some (file.take 4) := stRead_eq reads hfile 0 4
    have hskip : (if (file.take 4).all (fun b => b == 0) then 4 else 0) = headerSkip s.params file := by
      simp only [headerSkip, all_zero_take_four header.1, header, true_and]
    rw [fileOpened] at hread
    simp only [fsStartStep, if_neg (not_not.2 aligned), stOpen_eq opens hfile, if_pos ((headerLength_iff _ _).2 header), hread,
      hskip, fileOpened]
  · have hskip : headerSkip s.params file = 0 := if_neg fun ⟨hlong, hmod, _⟩ => header ⟨hlong, hmod⟩
    simp only [fsStartStep, if_neg (not_not.2 aligned), stOpen_eq opens hfile, if_neg ((headerLength_iff _ _).not.2 header),
      hskip, fileOpened]

end

/-- Settles O26: the checks of the start step, in their order. -/
theorem flashStartStepCases : Obligations.FlashStartStepCases := by
  intro s busy closed
  rw [fsStep_of_closed busy closed]
  refine ⟨fun h => ?_, fun aligned h => ?_, fun file aligned opens hfile hlt => ⟨fun header reads => ?_, ?_⟩⟩
  · rw [fsStartStep_misaligned h, fsFinish_of_closed closed]
  · rw [fsStartStep_unopened aligned h, fsFinish_of_closed closed]
  · rw [fsStartStep_unread aligned opens hfile header reads, fsFinish_of_closed closed]
    rfl
  · rintro h p rfl
    have hlen : (BitVec.ofNat 32 file.length).toNat = file.length := Nat.mod_eq_of_lt hlt
    have hskip : (BitVec.ofNat 32 (headerSkip s.params file)).toNat = headerSkip s.params file := by
      rw [headerSkip]
      split <;> rfl
    rw [fsStartStep_sized aligned opens hfile h, ← headerSkip, fsSizeCheck, fsFinish_of_closed closed]
    simp only [fsSetPos, fileOpened, hlen, hskip]
    split <;> rfl

end Sys2Proof.Machine
end

section
/-! The chunk steps of a flash request (spec/42_staging.md R238 to R248): what one chunk leaves in FLASH, how a request ends, and the whole
of a request that succeeds. -/

namespace Sys2Proof.Machine

open Sys2Proof

/-! ## FLASH after a write -/

/-- The bytes written at offset o are there. -/
theorem flashByte_written {s t : State} {o : Nat} {bytes : List Byte}
    (h : t.flash = Memory.writeBytes s.flash o bytes) {i : Nat} (hi : i < bytes.length) :
    some (flashByte t (o + i)) = bytes[i]? := by
  rw [flashByte, h, Memory.read_writeBytes, if_pos (by omega), Nat.add_sub_cancel_left, List.getElem?_eq_getElem hi,
    Option.getD_some]

/-- The bytes outside those written at offset o are as before. -/
theorem flashByte_unwritten {s t : State} {o : Nat} {bytes : List Byte}
    (h : t.flash = Memory.writeBytes s.flash o bytes) {b : Nat} (hb : b < o ∨ o + bytes.length ≤ b) :
    flashByte t b = flashByte s b := by
  rw [flashByte, h, Memory.read_writeBytes, if_neg (by omega), flashByte]

/-- Two buffers that stand in FLASH one after the other. -/
theorem flashByte_append {s : State} {o : Nat} {front back : List Byte}
    (hfront : ∀ i, i < front.length → some (flashByte s (o + i)) = front[i]?)
    (hback : ∀ i, i < back.length → some (flashByte s (o + front.length + i)) = back[i]?) (i : Nat)
    (hi : i < (front ++ back).length) : some (flashByte s (o + i)) = (front ++ back)[i]? := by
  rw [List.length_append] at hi
  rcases Nat.lt_or_ge i front.length with hlt | hge
  · rw [List.getElem?_append_left hlt, hfront i hlt]
  · rw [List.getElem?_append_right hge, ← hback (i - front.length) (by omega), Nat.add_assoc, Nat.add_sub_cancel' hge]

/-! ## One chunk -/

/-- The sector at offset o holds these bytes and then ERASED, and the rest of FLASH is as before (42_staging.md R240). -/
structure SectorProgrammed (o : Nat) (bytes : List Byte) (s t : State) : Prop where
  programmed : ∀ i, i < bytes.length → some (flashByte t (o + i)) = bytes[i]?
  blank      : ∀ i, bytes.length ≤ i → i < s.params.sector → flashByte t (o + i) = s.params.erased
  kept       : ∀ b, b < o ∨ o + s.params.sector ≤ b → flashByte t b = flashByte s b

theorem SectorProgrammed.congr {o : Nat} {bytes : List Byte} {s t u : State} (h : SectorProgrammed o bytes s u)
    (hflash : t.flash = u.flash) : SectorProgrammed o bytes s t where
  programmed i := flashByte_congr u t _ hflash ▸ h.programmed i
  blank i := flashByte_congr u t _ hflash ▸ h.blank i
  kept b := flashByte_congr u t b hflash ▸ h.kept b

/-- What an erase and a program of at most a sector leave (20_memory.md R93). -/
theorem sectorProgrammed {o : Nat} {bytes : List Byte} {s t u : State} (he : flashErase o s = some t)
    (hp : flashProgram o bytes t = some u) (hlen : bytes.length ≤ s.params.sector) :
    SectorProgrammed o bytes s u ∧ u = { s with flash := u.flash, flashBlank := u.flashBlank } := by
  obtain ⟨-, -, ht⟩ := flashErase_some _ _ _ he
  obtain ⟨-, -, -, -, -, rfl⟩ := flashProgram_some _ _ _ _ hp
  have herased : t.flash = Memory.writeBytes s.flash o (List.replicate s.params.sector s.params.erased) := by rw [ht]
  refine ⟨⟨fun i hi => flashByte_written rfl hi, fun i hlo hhi => ?_, fun b hb => ?_⟩, by rw [ht]⟩
  · have hi := flashByte_written herased (i := i) (by rwa [List.length_replicate])
    rw [List.getElem?_replicate, if_pos hhi, Option.some_inj] at hi
    exact (flashByte_unwritten rfl (.inr (Nat.add_le_add_left hlo o))).trans hi
  · exact (flashByte_unwritten rfl (by omega)).trans (flashByte_unwritten herased (by rwa [List.length_replicate]))

/-- A failed verify leaves what is outside its sector (42_staging.md R243). -/
theorem flashByte_flashSpoil {o b : Nat} {s : State} (hb : b < o ∨ o + s.params.sector ≤ b) :
    flashByte (flashSpoil o s) b = flashByte s b :=
  flashByte_unwritten rfl (by rwa [List.length_map, List.length_range])

/-! ## A chunk step -/

theorem fsStep_of_opened {h : Handle} {s : State} (busy : s.fs.busy = true) (opened : s.fs.handle = some h) :
    fsStep s = fsChunkStep h s := by
  rw [fsStep, if_neg (by simp [busy]), opened]

/-- The payload is done: the request ends with OK (42_staging.md R240). -/
theorem fsChunkStep_of_done {h : Handle} {s : State} (done : s.fs.pos = s.fs.len) :
    fsChunkStep h s = .next (fsFinish .ok s) :=
  if_pos done

/-- A read error ends the request (42_staging.md R245). -/
theorem fsChunkStep_of_unread {h : Handle} {s : State} (more : s.fs.pos ≠ s.fs.len) (reads : s.draw.reads = false) :
    fsChunkStep h s = .next (fsFinish .storageError s) := by
  rw [fsChunkStep, if_neg more, stRead_fails _ _ _ reads]

/-- In the machine's invariant a request runs, past its start step, on this file (42_staging.md R240). -/
structure Flashing (h : Handle) (file : List Byte) (s : State) : Prop where
  inv     : MachineInv s
  prem    : premises s = true
  busy    : s.fs.busy = true
  opened  : s.fs.handle = some h
  stored  : lookupFile h.name s.storage = some file

/-- The bytes a chunk step reads (42_staging.md R240). -/
def chunkOf (file : List Byte) (s : State) : List Byte := (file.drop s.fs.pos.toNat).take (chunkSize s)

section

variable {h : Handle} {file : List Byte} {s : State}

theorem Flashing.geometry (f : Flashing h file s) : FlashGeometry s.params := Params.wf_geometry (premises_wf f.prem)

theorem Flashing.length_file (f : Flashing h file s) : file.length = s.fs.len.toNat := by
  obtain ⟨⟨file', hfile', hlen⟩, -⟩ := (f.inv.stager f.prem).chunk f.busy h f.opened
  rw [← hlen, Option.some.inj (f.stored.symm.trans hfile')]

theorem Flashing.pos_le (f : Flashing h file s) : s.fs.pos.toNat ≤ s.fs.len.toNat := by
  obtain ⟨-, hpos, -⟩ := (f.inv.stager f.prem).chunk f.busy h f.opened
  exact hpos

theorem Flashing.room (f : Flashing h file s) :
    s.fs.off.toNat + (s.fs.len.toNat - s.fs.pos.toNat) ≤ s.params.flashSize := by
  obtain ⟨-, -, -, -, hroom⟩ := (f.inv.stager f.prem).chunk f.busy h f.opened
  exact hroom.trans f.geometry.stage_in_flash

theorem Flashing.length_chunkOf (f : Flashing h file s) : (chunkOf file s).length = chunkSize s := by
  rw [chunkOf, List.length_take, List.length_drop, f.length_file, chunkSize]
  omega

theorem Flashing.padded_le (f : Flashing h file s) :
    (swap16 (padChunk s.params (chunkOf file s))).length ≤ s.params.sector := by
  rw [length_swap16, f.geometry.length_padChunk, f.length_chunkOf]
  exact f.geometry.paddedSize_le_sector (Nat.min_le_left _ _)

/-- A chunk that is read is programmed into its sector, and the verify decides how the step ends (42_staging.md R240, R243). -/
theorem Flashing.programs (f : Flashing h file s) (more : s.fs.pos ≠ s.fs.len) (reads : s.draw.reads = true) :
    ∃ u, SectorProgrammed s.fs.off.toNat (swap16 (padChunk s.params (chunkOf file s))) s u ∧
      u = { s with flash := u.flash, flashBlank := u.flashBlank } ∧
      ((s.draw.verifies = true ∧ fsStep s = .next { u with fs := { u.fs with
          off := u.fs.off + BitVec.ofNat 32 (chunkSize s), pos := u.fs.pos + BitVec.ofNat 32 (chunkSize s) } }) ∨
        (s.draw.verifies = false ∧ fsStep s = .next (fsFinish .flashProgramError (flashSpoil s.fs.off.toNat u)))) := by
  obtain ⟨v, hv⟩ := fsChunkStep_completes f.geometry (f.inv.stager f.prem) f.busy f.opened
  have hchunk : fsChunkStep h s = fsProgramChunk (chunkSize s) (chunkOf file s) s := by
    rw [fsChunkStep, if_neg more, stRead_eq reads f.stored, chunkOf]
  obtain ⟨t, u, he, hp, hres⟩ := fsProgramChunk_next _ _ _ _ (hchunk.symm.trans hv)
  obtain ⟨hu, hrest⟩ := sectorProgrammed he hp f.padded_le
  refine ⟨u, hu, hrest, ?_⟩
  rw [fsStep_of_opened f.busy f.opened, hv]
  exact hres.imp (And.imp_right (congrArg _)) (And.imp_right (congrArg _))

/-- The cursor and the position do not wrap when they advance by a chunk (42_staging.md R242, 00_scope.md R10). -/
theorem Flashing.advance_toNat (f : Flashing h file s) :
    (s.fs.off + BitVec.ofNat 32 (chunkSize s)).toNat = s.fs.off.toNat + chunkSize s ∧
      (s.fs.pos + BitVec.ofNat 32 (chunkSize s)).toNat = s.fs.pos.toNat + chunkSize s := by
  have hsize := Params.wf_flashSize (premises_wf f.prem)
  have hroom := f.room
  have hpos := f.pos_le
  have hlen := s.fs.len.isLt
  have hle : chunkSize s ≤ s.fs.len.toNat - s.fs.pos.toNat := Nat.min_le_right _ _
  constructor <;> rw [BitVec.toNat_add, BitVec.toNat_ofNat] <;> omega

/-- From s a chunk step leads to t that programs its sector and advances by the unpadded length (42_staging.md R240 to R242). -/
structure ChunkProgrammed (file : List Byte) (s t : State) : Prop where
  step   : fsStep s = .next t
  sector : SectorProgrammed s.fs.off.toNat (swap16 (padChunk s.params (chunkOf file s))) s t
  fs     : t.fs = { s.fs with off := t.fs.off, pos := t.fs.pos }
  off    : t.fs.off.toNat = s.fs.off.toNat + chunkSize s
  pos    : t.fs.pos.toNat = s.fs.pos.toNat + chunkSize s

theorem Flashing.chunk_succeeds (f : Flashing h file s) (more : s.fs.pos ≠ s.fs.len) (reads : s.draw.reads = true)
    (verifies : s.draw.verifies = true) : ∃ t, ChunkProgrammed file s t := by
  obtain ⟨u, hu, hrest, ⟨-, hstep⟩ | ⟨hfails, -⟩⟩ := f.programs more reads
  · have hfs : u.fs = s.fs := by rw [hrest]
    rw [hfs] at hstep
    obtain ⟨hoff, hpos⟩ := f.advance_toNat
    exact ⟨_, hstep, hu.congr rfl, rfl, hoff, hpos⟩
  · exact absurd verifies (by simp [hfails])

end

/-- Settles O29: the sector is programmed, and no byte of RAM is touched. -/
theorem flashChunkStepProgramsOneSector : Obligations.FlashChunkStepProgramsOneSector := by
  rintro s h file hi hp busy opened more reads verifies hfile _ _ rfl rfl
  have f : Flashing h file s := ⟨hi, hp, busy, opened, hfile⟩
  obtain ⟨t, ht⟩ := f.chunk_succeeds more reads verifies
  have hrest := fsStep_frame s t ht.step
  refine ⟨t, ht.step, ht.sector.programmed, ht.sector.blank, ht.sector.kept, fun a => ramByte_congr s t a ?_ ?_, ht.off, ht.pos,
    ?_⟩
  · rw [hrest]
  · rw [hrest]
  · rwa [ht.fs] at hrest

/-- Settles O30: the three endings of a chunk step. -/
theorem flashChunkStepEndings : Obligations.FlashChunkStepEndings := by
  intro s h hi hp busy opened
  obtain ⟨⟨file, hfile, -⟩, -⟩ := (hi.stager hp).chunk busy h opened
  have f : Flashing h file s := ⟨hi, hp, busy, opened, hfile⟩
  have hopened := fsStep_of_opened busy opened
  refine ⟨fun done => hopened.trans (fsChunkStep_of_done done), fun more reads => hopened.trans (fsChunkStep_of_unread more reads),
    fun more reads fails => ?_⟩
  obtain ⟨u, hu, hrest, ⟨hverifies, -⟩ | ⟨-, hstep⟩⟩ := f.programs more reads
  · exact absurd hverifies (by simp [fails])
  · have hparams : u.params = s.params := by rw [hrest]
    refine ⟨_, hstep, fun o ho => ?_, fun a => ramByte_congr s _ a ?_ ?_, ?_⟩
    · exact (flashByte_flashSpoil (s := u) (hparams ▸ ho)).trans (hu.kept o ho)
    all_goals rw [hrest]; rfl

/-! ## A whole request -/

/-- A payload is padded and swapped chunk by chunk: every chunk but the last is of whole pages (42_staging.md R238, R239, R241). -/
theorem swap16_padChunk_append {p : Params} (hwf : p.wf = true) {front back : List Byte}
    (h : p.page ∣ front.length ∨ back = []) :
    swap16 (padChunk p (front ++ back)) = swap16 (padChunk p front) ++ swap16 (padChunk p back) := by
  have g := Params.wf_geometry hwf
  have hnil : padChunk p [] = [] := g.padChunk_of_dvd (Nat.dvd_zero _)
  rcases h with hpages | rfl
  · rw [g.padChunk_append hpages, g.padChunk_of_dvd hpages, swap16_append ((Params.wf_page_even hwf).trans hpages)]
  · rw [List.append_nil, hnil, swap16, List.append_nil]

/-- What the rest of a request that succeeds leaves (42_staging.md R247): FLASH is written from the cursor on, and not at all once the
payload is done. -/
structure PayloadProgrammed (out : List Byte) (s t : State) : Prop where
  idle       : t.fs.busy = false
  result     : t.fs.result = .ok
  pos        : t.fs.pos = s.fs.len
  off        : t.fs.off.toNat = s.fs.off.toNat + (s.fs.len.toNat - s.fs.pos.toNat)
  programmed : ∀ i, i < out.length → some (flashByte t (s.fs.off.toNat + i)) = out[i]?
  kept       : ∀ o, o < s.fs.off.toNat ∨ s.fs.pos = s.fs.len → flashByte t o = flashByte s o
  ram        : ∀ a, ramByte t a = ramByte s a

section

variable {h : Handle} {file : List Byte} {s : State}

/-- Nothing is left to program once the payload is done. -/
theorem Flashing.rest_nil (f : Flashing h file s) (done : s.fs.pos = s.fs.len) :
    swap16 (padChunk s.params (file.drop s.fs.pos.toNat)) = [] := by
  rw [List.drop_of_length_le (by rw [f.length_file, done]), f.geometry.padChunk_of_dvd (Nat.dvd_zero _), swap16]

/-- The last step of a request that succeeds finds the payload done. -/
theorem Flashing.finishes (f : Flashing h file s) (done : s.fs.pos = s.fs.len) :
    fsStep s = .next (fsFinish .ok s) ∧
      PayloadProgrammed (swap16 (padChunk s.params (file.drop s.fs.pos.toNat))) s (fsFinish .ok s) := by
  rw [fsStep_of_opened f.busy f.opened, f.rest_nil done]
  refine ⟨fsChunkStep_of_done done, rfl, rfl, done, ?_, nofun, fun _ _ => rfl, fun _ => rfl⟩
  rw [done, Nat.sub_self]
  rfl

/-- A chunk is a whole sector, or it is what is left of the payload (42_staging.md R241). -/
theorem Flashing.full_or_last (f : Flashing h file s) :
    (chunkSize s = s.params.sector ∧ (swap16 (padChunk s.params (chunkOf file s))).length = s.params.sector) ∨
      chunkSize s = s.fs.len.toNat - s.fs.pos.toNat := by
  rcases Nat.le_total s.params.sector (s.fs.len.toNat - s.fs.pos.toNat) with hfull | hlast
  · have hn : chunkSize s = s.params.sector := Nat.min_eq_left hfull
    refine .inl ⟨hn, ?_⟩
    rw [length_swap16, f.geometry.length_padChunk, f.length_chunkOf, hn, f.geometry.paddedSize_of_dvd f.geometry.page_dvd]
  · exact .inr (Nat.min_eq_right hlast)

/-- A chunk step that succeeds goes on with the rest of the file (42_staging.md R240). -/
theorem ChunkProgrammed.flashing {t : State} (c : ChunkProgrammed file s t) (f : Flashing h file s) : Flashing h file t := by
  have hrest := fsStep_frame s t c.step
  have hstorage : t.storage = s.storage := by rw [hrest]
  refine ⟨runAction_keeps_machineInv (a := .fs) f.inv c.step, ?_, ?_, ?_, hstorage ▸ f.stored⟩
  · exact (premises_congr (by rw [hrest]) hstorage).trans f.prem
  · rw [c.fs]; exact f.busy
  · rw [c.fs]; exact f.opened

/-- After the last chunk the payload is done. -/
theorem ChunkProgrammed.done_of_last {t : State} (c : ChunkProgrammed file s t) (f : Flashing h file s)
    (last : chunkSize s = s.fs.len.toNat - s.fs.pos.toNat) : t.fs.pos = t.fs.len := by
  have hpos := f.pos_le
  have hlen : t.fs.len = s.fs.len := by rw [c.fs]
  exact BitVec.eq_of_toNat_eq (by rw [hlen, c.pos]; omega)

/-- The padded, swapped payload is that of the chunk and then that of the rest (42_staging.md R241). -/
theorem ChunkProgrammed.payload_eq {t : State} (c : ChunkProgrammed file s t) (f : Flashing h file s) :
    swap16 (padChunk s.params (file.drop s.fs.pos.toNat)) =
      swap16 (padChunk s.params (chunkOf file s)) ++ swap16 (padChunk s.params (file.drop t.fs.pos.toNat)) := by
  have hdrop : file.drop s.fs.pos.toNat = chunkOf file s ++ file.drop t.fs.pos.toNat := by
    rw [c.pos, ← List.drop_drop, chunkOf, List.take_append_drop]
  rw [hdrop]
  refine swap16_padChunk_append (premises_wf f.prem) ?_
  rcases f.full_or_last with ⟨hfull, -⟩ | hlast
  · exact .inl (by rw [f.length_chunkOf, hfull]; exact f.geometry.page_dvd)
  · exact .inr (List.drop_of_length_le (by rw [c.done_of_last f hlast, (c.flashing f).length_file]))

/-- A chunk and then the rest of the payload are the payload. -/
theorem ChunkProgrammed.then_rest {t v : State} (c : ChunkProgrammed file s t) (f : Flashing h file s)
    (more : s.fs.pos ≠ s.fs.len)
    (hv : PayloadProgrammed (swap16 (padChunk t.params (file.drop t.fs.pos.toNat))) t v) :
    PayloadProgrammed (swap16 (padChunk s.params (file.drop s.fs.pos.toNat))) s v := by
  have hrest := fsStep_frame s t c.step
  have hparams : t.params = s.params := by rw [hrest]
  have hlen : t.fs.len = s.fs.len := by rw [c.fs]
  have hpos := f.pos_le
  have hle : chunkSize s ≤ s.fs.len.toNat - s.fs.pos.toNat := Nat.min_le_right _ _
  have hprog := hv.programmed
  rw [hparams, c.off] at hprog
  refine ⟨hv.idle, hv.result, hv.pos.trans hlen, ?_, fun i hi => ?_, fun o ho => ?_, fun a => ?_⟩
  · rw [hv.off, c.off, c.pos, hlen]
    omega
  · rw [c.payload_eq f] at hi ⊢
    refine flashByte_append (fun i hi => ?_) (fun i hi => ?_) i hi
    · rw [← c.sector.programmed i hi, hv.kept]
      rcases f.full_or_last with ⟨hfull, hsize⟩ | hn
      · exact .inl (by rw [c.off]; omega)
      · exact .inr (c.done_of_last f hn)
    · rcases f.full_or_last with ⟨hfull, hsize⟩ | hn
      · rw [hsize, ← hfull]
        exact hprog i hi
      · rw [← hparams, (c.flashing f).rest_nil (c.done_of_last f hn)] at hi
        exact absurd hi (Nat.not_lt_zero i)
  · have hlo := ho.resolve_right more
    exact (hv.kept o (.inl (by rw [c.off]; omega))).trans (c.sector.kept o (.inl hlo))
  · exact (hv.ram a).trans (ramByte_congr s t a (by rw [hrest]) (by rw [hrest]))

/-- A request whose reads and verifies succeed programs n more chunks and ends (42_staging.md R240 to R242). -/
theorem Flashing.completes {n : Nat} (f : Flashing h file s) (reads : s.draw.reads = true) (verifies : s.draw.verifies = true)
    (hle : s.fs.len.toNat - s.fs.pos.toNat ≤ s.params.sector * n)
    (hlt : s.params.sector * n < s.fs.len.toNat - s.fs.pos.toNat + s.params.sector) :
    ∃ t, repeatStep fsStep (n + 1) s = .next t ∧
      PayloadProgrammed (swap16 (padChunk s.params (file.drop s.fs.pos.toNat))) s t := by
  have hpos := f.pos_le
  induction n generalizing s with
  | zero =>
    have done : s.fs.pos = s.fs.len := BitVec.eq_of_toNat_eq (by omega)
    obtain ⟨hstep, hdone⟩ := f.finishes done
    exact ⟨_, repeatStep_succ hstep 0, hdone⟩
  | succ n ih =>
    rw [Nat.mul_succ] at hle hlt
    have more : s.fs.pos ≠ s.fs.len := fun he => by rw [he] at hlt; omega
    obtain ⟨t, c⟩ := f.chunk_succeeds more reads verifies
    have hrest := fsStep_frame s t c.step
    have hdraw : t.draw = s.draw := by rw [hrest]
    have hparams : t.params = s.params := by rw [hrest]
    have hlen : t.fs.len = s.fs.len := by rw [c.fs]
    have hn : chunkSize s = min s.params.sector (s.fs.len.toNat - s.fs.pos.toNat) := rfl
    obtain ⟨v, hrun, hv⟩ := ih (c.flashing f) (hdraw ▸ reads) (hdraw ▸ verifies) (by rw [hparams, hlen, c.pos]; omega)
      (by rw [hparams, hlen, c.pos]; omega) (c.flashing f).pos_le
    exact ⟨v, (repeatStep_succ c.step (n + 1)).trans hrun, c.then_rest f more hv⟩

end

/-- Settles O31: the chunks of the payload are counted by rounding up. -/
theorem successfulRequestProgramsThePayload : Obligations.SuccessfulRequestProgramsThePayload := by
  rintro s h file hi hp busy opened reads verifies hfile hoff _ rfl
  have f : Flashing h file s := ⟨hi, hp, busy, opened, hfile⟩
  have hsector := f.geometry.sector_pos
  rw [f.length_file]
  have hdiv := Nat.div_add_mod (s.fs.len.toNat - s.fs.pos.toNat + s.params.sector - 1) s.params.sector
  have hmod := Nat.mod_lt (s.fs.len.toNat - s.fs.pos.toNat + s.params.sector - 1) hsector
  obtain ⟨t, hrun, ht⟩ := f.completes (n := (s.fs.len.toNat - s.fs.pos.toNat + s.params.sector - 1) / s.params.sector) reads
    verifies (by omega) (by omega)
  obtain ⟨hidle, hresult, hpos, hoff', hprogrammed, hkept, hram⟩ := ht
  rw [hoff] at hoff' hprogrammed hkept
  exact ⟨t, hrun, hidle, hresult, hpos, hoff', hprogrammed, fun o ho => hkept o (.inl ho), hram⟩

end Sys2Proof.Machine
end

section
/-! The Mode Controller's states and the commands MENU writes to CMD (spec/43_mode_controller.md R263 to R296): what entering a state changes,
what a command does in each state, and the Mode Controller's step state by state. -/

namespace Sys2Proof.Machine

open Sys2Proof

/-! ## Entering a state -/

/-- The states of R274 in which a command is ignored. -/
theorem McState.isTerminal_iff (q : McState) : q.isTerminal = true ↔ q = .handedOff ∨ q = .resetReq ∨ q = .fatal := by
  cases q <;> decide

theorem McState.isTerminal_eq_false_iff (q : McState) :
    q.isTerminal = false ↔ q ≠ .handedOff ∧ q ≠ .resetReq ∧ q ≠ .fatal := by
  rw [Bool.eq_false_iff, ne_eq, q.isTerminal_iff, not_or, not_or]

/-- A state without an entry action of its own: entering it clears LP_EN and writes nothing else (43_mode_controller.md R263). -/
theorem enter_plain {q : McState} (hwait : q.isWait = false) (hterm : q.isTerminal = false) (s : State) :
    enter q s = { s with mc := { s.mc with state := q }, db := { s.db with lpEn := false } } := by
  obtain ⟨hhanded, hreset, hfatal⟩ := q.isTerminal_eq_false_iff.1 hterm
  simp [enter, hwait, hhanded, hreset, hfatal]

theorem McState.isTerminal_of_isWait {q : McState} : q.isWait = true → q.isTerminal = false := by
  cases q <;> decide

/-- A wait state is entered with EVT cleared and LP_EN set (43_mode_controller.md R263). -/
theorem enter_wait {q : McState} (hwait : q.isWait = true) (s : State) :
    enter q s = { s with mc := { s.mc with state := q }, db := { s.db with evt := .none, lpEn := true } } := by
  obtain ⟨hhanded, hreset, hfatal⟩ := q.isTerminal_eq_false_iff.1 (McState.isTerminal_of_isWait hwait)
  simp [enter, hwait, hhanded, hreset, hfatal]

theorem enter_resetReq (s : State) :
    enter .resetReq s =
      { s with mc := { s.mc with state := .resetReq, resetRequested := true }, db := { s.db with lpEn := false } } := by
  simp [enter, McState.isWait]

theorem enter_handedOff (s : State) :
    enter .handedOff s =
      { s with mc := { s.mc with state := .handedOff, handoff := true }, db := { s.db with lpEn := false } } := by
  simp [enter, McState.isWait]

/-! ## Command words -/

/-- A command word that R274 rejects as reserved: a 1 in its bits [15:9], an OP above 2, or M = 1 with an OP other than LAUNCH. -/
def ReservedCommand (w : Word16) : Prop :=
  w.extractLsb' 9 7 ≠ 0 ∨ 2 < (w.extractLsb' 0 8).toNat ∨ (w.getLsbD 8 = true ∧ (w.extractLsb' 0 8).toNat ≠ 1)

/-- A word written to CMD is reserved, or its OP and M say which command it is (30_encoding.md R143, R144). -/
inductive CommandWord (w : Word16) : Decoded → Prop
  | reserved {why : DecodeError} (h : ReservedCommand w) : CommandWord w (.refused why)
  | nop (h : ¬ReservedCommand w) (op : (w.extractLsb' 0 8).toNat = 0) : CommandWord w (.instr .nop)
  | launch (h : ¬ReservedCommand w) (op : (w.extractLsb' 0 8).toNat = 1) :
      CommandWord w (.instr (.launch (if w.getLsbD 8 then .delay else .direct)))
  | handoff (h : ¬ReservedCommand w) (op : (w.extractLsb' 0 8).toNat = 2) : CommandWord w (.instr .handoff)

theorem commandWord_decodeCommand (w : Word16) : CommandWord w (decodeCommand w) := by
  have unreserved (hbits : w.extractLsb' 9 7 = 0) (hop : (w.extractLsb' 0 8).toNat ≤ 2)
      (hm : w.getLsbD 8 = true → (w.extractLsb' 0 8).toNat = 1) : ¬ReservedCommand w := by
    rintro (h | h | ⟨h, hne⟩)
    · exact h hbits
    · exact absurd hop (Nat.not_le.2 h)
    · exact hne (hm h)
  unfold decodeCommand
  split
  case isTrue hbits => exact .reserved (.inl (bne_iff_ne.1 hbits))
  case isFalse hbits =>
    have hbits : w.extractLsb' 9 7 = 0 := by simpa using hbits
    split
    case h_1 hop hm => exact .nop (unreserved hbits (by omega) fun h => absurd (hm ▸ h) Bool.false_ne_true) hop
    case h_2 hop hm => exact .reserved (.inr (.inr ⟨hm, by omega⟩))
    case h_3 hop hm =>
      have h := CommandWord.launch (unreserved hbits (by omega) fun _ => hop) hop
      rwa [hm] at h
    case h_4 hop hm =>
      have h := CommandWord.launch (unreserved hbits (by omega) fun _ => hop) hop
      rwa [hm] at h
    case h_5 hop hm => exact .handoff (unreserved hbits (by omega) fun h => absurd (hm ▸ h) Bool.false_ne_true) hop
    case h_6 hop hm => exact .reserved (.inr (.inr ⟨hm, by omega⟩))
    case h_7 h0 h0' h1 h1' h2 h2' =>
      refine .reserved (.inr (.inl ?_))
      cases hm : w.getLsbD 8 <;> simp only [hm, imp_false, not_true_eq_false] at h0 h0' h1 h1' h2 h2' <;> omega

theorem writeCmd_of_instr {w : Word16} {i : Instr} (h : decodeCommand w = .instr i) (s : State) : writeCmd w s = exec i s := by
  rw [writeCmd, h]

theorem writeCmd_of_refused {w : Word16} {why : DecodeError} (h : decodeCommand w = .refused why) (s : State) :
    writeCmd w s = .next (rejectCommand s) := by
  rw [writeCmd, h]

/-! ## Commands -/

theorem rejectCommand_ignored {s : State} (h : s.mc.state.isTerminal = true) : rejectCommand s = s := if_pos h

theorem rejectCommand_rejected {s : State} (h : s.mc.state.isTerminal = false) :
    rejectCommand s = recordError .commandRejected s := if_neg (by simp [h])

theorem acceptCommand_accepted {effect : State → State} {s : State} (h : s.mc.state = .setupLoop) :
    acceptCommand effect s = effect (recordError .none s) := if_pos h

theorem acceptCommand_elsewhere {effect : State → State} {s : State} (h : s.mc.state ≠ .setupLoop) :
    acceptCommand effect s = rejectCommand s := if_neg h

/-- SETUP_LOOP is no terminal state. -/
theorem ne_setupLoop_of_isTerminal {q : McState} (h : q.isTerminal = true) : q ≠ .setupLoop := by
  rintro rfl
  cases h

/-- RESULT while a launch or a handoff runs with no error recorded (10_state.md R64). -/
theorem csrValue_result_busy {s : State} (hbusy : s.mc.state.isBusy = true) (herr : s.mc.lastError = .none) :
    csrValue 4 s = 0x0100 := by
  change resultWord s = 0x0100
  rw [resultWord, hbusy, herr]
  rfl

/-- Settles O16: `nop` has no effect, and of 0x0100 the M bit is reserved. -/
theorem nopCommandChangesNothing : Obligations.NopCommandChangesNothing := by
  intro s
  have hstray : writeCmd 0x0100 s = .next (rejectCommand s) := writeCmd_of_refused (why := .strayM) rfl s
  refine ⟨rfl, writeCmd_of_instr (i := .nop) rfl s, fun live => ?_, fun terminal => ?_⟩
  · rw [hstray, rejectCommand_rejected live]
    rfl
  · rw [hstray, rejectCommand_ignored terminal]

/-- Settles O17: in SETUP_LOOP the writes and the entry of LAUNCH_CHECK, elsewhere the rejection. -/
theorem launchCommandResultAndFrame : Obligations.LaunchCommandResultAndFrame := by
  intro m s
  refine ⟨fun loop => ?_, fun elsewhere live => ?_, fun terminal => ?_⟩
  · refine ⟨_, congrArg Host.Outcome.next (acceptCommand_accepted loop), ?_⟩
    rw [enter_plain rfl rfl]
    refine ⟨rfl, rfl, by cases m <;> rfl, rfl, rfl, csrValue_result_busy rfl rfl, rfl, fun _ => rfl, fun _ => rfl⟩
  · exact congrArg _ ((acceptCommand_elsewhere elsewhere).trans (rejectCommand_rejected live))
  · exact congrArg _ ((acceptCommand_elsewhere (ne_setupLoop_of_isTerminal terminal)).trans (rejectCommand_ignored terminal))

/-- Settles O18: in SETUP_LOOP the entry of HANDOFF_PERSIST, elsewhere the rejection; of 0x0102 the M bit is reserved. -/
theorem handoffCommandResultAndFrame : Obligations.HandoffCommandResultAndFrame := by
  intro s
  refine ⟨fun loop => ?_, fun elsewhere live => ⟨?_, ?_⟩, fun terminal => ?_⟩
  · refine ⟨_, congrArg Host.Outcome.next (acceptCommand_accepted loop), ?_⟩
    rw [enter_plain rfl rfl]
    exact ⟨rfl, rfl, rfl, csrValue_result_busy rfl rfl, rfl, fun _ => rfl, fun _ => rfl⟩
  · exact congrArg _ ((acceptCommand_elsewhere elsewhere).trans (rejectCommand_rejected live))
  · exact (writeCmd_of_refused (why := .strayM) rfl s).trans (congrArg _ (rejectCommand_rejected live))
  · exact congrArg _ ((acceptCommand_elsewhere (ne_setupLoop_of_isTerminal terminal)).trans (rejectCommand_ignored terminal))

/-- A terminal state ignores every word written to CMD (43_mode_controller.md R274). -/
theorem writeCmd_ignored {s : State} (terminal : s.mc.state.isTerminal = true) (w : Word16) : writeCmd w s = .next s := by
  have elsewhere := ne_setupLoop_of_isTerminal terminal
  have hword := commandWord_decodeCommand w
  generalize hd : decodeCommand w = d at hword
  cases hword with
  | reserved => rw [writeCmd_of_refused hd, rejectCommand_ignored terminal]
  | nop => exact writeCmd_of_instr hd s
  | launch | handoff =>
    exact (writeCmd_of_instr hd s).trans (congrArg _ ((acceptCommand_elsewhere elsewhere).trans (rejectCommand_ignored terminal)))

/-- Settles O19: the word is reserved or one of the three commands, and each reads the state as R274 orders its checks. -/
theorem commandDispatch : Obligations.CommandDispatch := by
  intro w s
  by_cases terminal : s.mc.state.isTerminal = true
  · rw [if_pos (s.mc.state.isTerminal_iff.1 terminal)]
    exact writeCmd_ignored terminal w
  · rw [if_neg (s.mc.state.isTerminal_iff.not.1 terminal)]
    have live : s.mc.state.isTerminal = false := by simpa using terminal
    have hword := commandWord_decodeCommand w
    generalize hd : decodeCommand w = d at hword
    cases hword with
    | reserved h =>
      rw [ReservedCommand] at h
      rw [if_pos h, writeCmd_of_refused hd, rejectCommand_rejected live]
      rfl
    | nop h op =>
      rw [ReservedCommand] at h
      rw [if_neg h, if_pos op, writeCmd_of_instr hd]
      rfl
    | launch h op =>
      rw [ReservedCommand] at h
      rw [if_neg h, if_neg (by omega), writeCmd_of_instr hd, exec, execLaunch]
      by_cases loop : s.mc.state = .setupLoop
      · rw [acceptCommand_accepted loop, if_neg (not_not.2 loop), if_pos op]
        cases w.getLsbD 8 <;> rfl
      · rw [acceptCommand_elsewhere loop, if_pos loop, rejectCommand_rejected live]
        rfl
    | handoff h op =>
      rw [ReservedCommand] at h
      rw [if_neg h, if_neg (by omega), writeCmd_of_instr hd, exec, execHandoff]
      by_cases loop : s.mc.state = .setupLoop
      · rw [acceptCommand_accepted loop, if_neg (not_not.2 loop), if_neg (by omega)]
        rfl
      · rw [acceptCommand_elsewhere loop, if_pos loop, rejectCommand_rejected live]
        rfl

/-! ## The Mode Controller's step -/

/-- While RL or FS runs the Mode Controller waits (43_mode_controller.md R264). -/
theorem mcStep_waits {s : State} (h : s.rl.busy = true ∨ s.fs.busy = true) : mcStep s = s := if_pos (by simpa using h)

/-- RL or FS runs, or neither does. -/
theorem busy_or_idle (s : State) : (s.rl.busy = true ∨ s.fs.busy = true) ∨ firmwareIdle s := by
  unfold firmwareIdle
  cases s.rl.busy <;> cases s.fs.busy <;> simp

theorem mcStep_at {s : State} {q : McState} (idle : firmwareIdle s) (hq : s.mc.state = q) : mcStep s = mcAction q s :=
  mcStep_idle s q idle.1 idle.2 hq

/-- The states whose action is no step (43_mode_controller.md R265). -/
theorem mcAction_still {q : McState} (h : q = .setupLoop ∨ q.isTerminal = true) (s : State) : mcAction q s = s := by
  rw [q.isTerminal_iff] at h
  rcases h with rfl | rfl | rfl | rfl <;> rfl

theorem enabled_mc_of_still {s : State} (h : s.mc.state = .setupLoop ∨ s.mc.state.isTerminal = true) :
    enabled .mc s = false := by
  rw [McState.isTerminal_iff] at h
  rcases h with h | h | h | h <;> simp [enabled, h]

/-- Settles O39: the Mode Controller waits for RL or FS, or its state takes no step. -/
theorem modeControllerStandsStill : Obligations.ModeControllerStandsStill := by
  intro s h
  rcases busy_or_idle s with busy | idle
  · refine ⟨mcStep_waits busy, ?_⟩
    rcases busy with busy | busy <;> simp [enabled, busy]
  · have still : s.mc.state = .setupLoop ∨ s.mc.state.isTerminal = true := by
      rw [McState.isTerminal_iff]
      simpa [idle.1, idle.2] using h
    exact ⟨(mcStep_at idle rfl).trans (mcAction_still still s), enabled_mc_of_still still⟩

/-- BOOT enters the state of the persisted mode (43_mode_controller.md R266). -/
theorem mcBoot_eq (s : State) :
    mcBoot s = enter (bootTarget (decodeMode s.nv.mode)) { s with mc := { s.mc with mode := decodeMode s.nv.mode } } := by
  unfold mcBoot
  cases decodeMode s.nv.mode <;> rfl

/-- Settles O32, mode by mode. -/
theorem bootBranchesOnThePersistedMode : Obligations.BootBranchesOnThePersistedMode := by
  intro s idle at_boot
  rw [mcStep_at idle at_boot, mcAction, mcBoot_eq]
  cases decodeMode s.nv.mode with
  | setup | direct =>
    rw [bootTarget, enter_plain rfl rfl]
    exact ⟨rfl, rfl, nofun, fun _ => rfl, rfl⟩
  | delay =>
    rw [bootTarget, enter_wait rfl]
    exact ⟨rfl, rfl, fun _ => rfl, fun h => absurd rfl h, rfl⟩

/-- With no load running, an invocation starts one (42_staging.md R221). -/
theorem rlInvoke_idle {s : State} (idle : s.rl.busy = false) (src : Source) :
    rlInvoke src s = { s with rl := ⟨true, src, 0, BitVec.ofNat 17 (loadLength s.params src)⟩ } := by
  simp [rlInvoke, idle]

/-- Settles O33: the invocation, then the entry of the next state. -/
theorem stagingStatesInvokeTheLoader : Obligations.StagingStatesInvokeTheLoader := by
  intro s idle
  refine ⟨fun at_stage short => ?_, fun at_stage => ?_⟩ <;> rw [mcStep_at idle at_stage]
  · rw [mcAction, mcSetupStage, rlInvoke_idle idle.1, enter_plain rfl rfl]
    exact ⟨rfl, Nat.mod_eq_of_lt short⟩
  · rw [mcAction, mcEmuStage, rlInvoke_idle idle.1, enter_wait rfl]
    rfl

/-- Settles O34: the answers of storage and of the network decide. -/
theorem setupInitChecksStorageThenNetwork : Obligations.SetupInitChecksStorageThenNetwork := by
  intro s idle at_init
  rw [mcStep_at idle at_init, mcAction]
  refine ⟨fun absent => ?_, fun present connects => ?_, fun present fails => ?_⟩
  · rw [absent, mcSetupInit, if_neg Bool.false_ne_true, enter_wait rfl]
    rfl
  · rw [present, connects, mcSetupInit, if_pos rfl, enter_plain rfl rfl, if_pos rfl]
  · rw [present, fails, mcSetupInit, if_pos rfl, enter_plain rfl rfl, if_neg Bool.false_ne_true]
    rfl

/-- Settles O35: the event and, in STORAGE_WAIT, the answer of storage decide. -/
theorem operatorWaits : Obligations.OperatorWaits := by
  intro s idle
  refine ⟨fun waiting long => ?_, fun waiting event present => ?_, fun waiting event absent => ?_, fun waiting short => ?_,
    fun waiting short => ?_, fun waiting quiet => ?_⟩
  · rw [← enter_plain (q := .factoryReset) rfl rfl]
    rcases waiting with waiting | waiting | waiting <;> rw [mcStep_at idle waiting, mcAction]
    · exact if_pos long
    · rw [mcDelayWait, long]
    · rw [mcEmuWaitExit, long]
  · rw [mcStep_at idle waiting, mcAction, mcStorageWait, if_neg event, if_pos present, enter_plain rfl rfl]
  · rw [mcStep_at idle waiting, mcAction, mcStorageWait, if_neg event, if_neg (by simp [absent])]
    rfl
  · rw [mcStep_at idle waiting, mcAction, mcDelayWait, short]
    exact enter_plain rfl rfl _
  · rw [mcStep_at idle waiting, mcAction, mcEmuWaitExit, short]
    exact enter_plain rfl rfl _
  · rcases waiting with waiting | waiting <;> rw [mcStep_at idle waiting, mcAction]
    · rw [mcDelayWait, quiet]
    · rw [mcEmuWaitExit, quiet]

/-- What follows the last dot of a name, where no dot is in it (43_mode_controller.md R278). -/
theorem extension_of_dot (base : List Byte) {ext : List Byte} (h : (0x2E : Byte) ∉ ext) :
    extension (base ++ 0x2E :: ext) = ext := by
  have hrev : (base ++ 0x2E :: ext).reverse = ext.reverse ++ 0x2E :: base.reverse := by simp
  have hext : ∀ b ∈ ext.reverse, (b != 0x2E) = true := fun b hb =>
    bne_iff_ne.2 fun he => h (he ▸ List.mem_reverse.1 hb)
  rw [extension, if_pos (by simp), hrev, List.takeWhile_append_of_pos hext, List.takeWhile_cons_of_neg (by simp),
    List.append_nil, List.reverse_reverse]

/-- The upper-case letters are folded by adding 0x20 (30_encoding.md R155). -/
theorem foldCase_eq (b : Byte) :
    foldCase b = if 0x41 ≤ b.toNat ∧ b.toNat ≤ 0x5A then BitVec.ofNat 8 (b.toNat + 0x20) else b := by
  have hadd : b + 0x20 = BitVec.ofNat 8 (b.toNat + 0x20) := BitVec.eq_of_toNat_eq (by simp)
  rw [foldCase, hadd]

theorem eligible_iff (p : Params) (name : List Byte) :
    eligible p name = true ↔ ∃ e ∈ p.extAllowList, e.map foldCase = (extension name).map foldCase := by
  simp [eligible]

/-- Settles O36: the extension is what follows the last dot, and its match with an entry of the list decides. -/
theorem launchCheckComparesTheExtension : Obligations.LaunchCheckComparesTheExtension := by
  refine ⟨fun base ext h => extension_of_dot base h, fun name h => if_neg h, foldCase_eq, fun s idle at_check => ?_⟩
  rw [mcStep_at idle at_check, mcAction, mcLaunchCheck, ← eligible_iff]
  refine ⟨fun h => ?_, fun h => ?_⟩
  · rw [if_pos h, enter_plain rfl rfl]
  · rw [if_neg h, enter_plain rfl rfl]
    rfl

/-- A flash request outside the emulation states, with none running (42_staging.md R233). -/
theorem fsInvoke_idle {s : State} (idle : s.fs.busy = false) (h : s.mc.state.isEmulation = false) (d : BitVec 32) :
    fsInvoke d s = { s with fs := ⟨true, none, 0, 0, d, .ok⟩ } := by
  simp [fsInvoke, idle, h]

/-- A result other than OK leads back to SETUP_LOOP with its code recorded (43_mode_controller.md R281). -/
theorem mcLaunchFlash_failed {s : State} {e : ErrorCode} (h : s.fs.result.error = some e) :
    mcLaunchFlash s =
      { s with mc := { s.mc with state := .setupLoop, lastError := e }, db := { s.db with lpEn := false } } := by
  rw [mcLaunchFlash, h]
  exact enter_plain rfl rfl _

/-- Settles O37: LAUNCH_RECORD is no emulation state, and each result has its code. -/
theorem launchRecordAndFlashResult : Obligations.LaunchRecordAndFlashResult := by
  intro s idle
  refine ⟨fun at_record => ?_, fun at_flash ok => ?_, fun at_flash failed => ?_⟩
  · rw [mcStep_at idle at_record, mcAction, mcLaunchRecord, fsInvoke_idle idle.2 (by rw [at_record]; rfl)]
    exact (if_neg (by rw [at_record]; decide)).trans (enter_plain rfl rfl _)
  · rw [mcStep_at idle at_flash, mcAction, mcLaunchFlash, ok]
    exact enter_plain rfl rfl _
  · rw [mcStep_at idle at_flash, mcAction]
    cases hresult : s.fs.result with
    | ok => exact absurd hresult failed
    | storageError | alignmentError | flashProgramError | notEligible =>
      rw [mcLaunchFlash_failed (by rw [hresult]; rfl)]
      simp only [reduceCtorEq, false_imp_iff, forall_const, true_and, and_true]
      rfl

/-- Settles O38, state by state. -/
theorem persistStatesWriteTheStore : Obligations.PersistStatesWriteTheStore := by
  intro s idle
  refine ⟨fun at_persist => ?_, fun at_persist => ?_, fun at_persist => ?_, fun at_persist => ?_⟩ <;>
    rw [mcStep_at idle at_persist, mcAction]
  · exact enter_resetReq _
  · exact enter_handedOff _
  · exact enter_resetReq _
  · exact enter_resetReq _

end Sys2Proof.Machine
end

section
/-! Whole-machine rules about the Mode Controller's registers and the settings store: which actions write them, when NV `mode` changes, how
HANDOFF_PERSIST is entered, and how a run ends (spec/43_mode_controller.md R299, R300, R302; spec/70_reset_and_hazards.md R387, R388). -/

namespace Sys2Proof.Machine

open Sys2Proof

/-! ## The writers of the Mode Controller's registers -/

/-- The Mode Controller's registers are written by its own step, by a write to CMD, by a fatal load and by a device reset alone
(10_state.md R68). -/
theorem runAction_mc_writers {a : Action} {s t : State} (h : runAction a s = .next t) :
    t.mc = s.mc ∨ (∃ e, t.mc = (fatal e s).mc) ∨ t = mcStep s ∨ (∃ w, a = .writeCsr 3 w ∧ writeCmd w s = .next t) ∨
      a = .deviceReset := by
  rcases runAction_cases a s t h with ⟨x, -, h⟩ | ⟨-, rfl⟩ | ⟨-, h⟩ | ⟨-, h⟩ | ⟨-, rfl⟩ | ⟨-, rfl⟩ | ⟨w, rfl, h⟩ | ⟨rfl, -⟩ | ⟨h, -⟩
  · exact .inl (by rw [(seqTurn_frame h).1])
  · exact .inl (by rw [(luStep_frame s).1])
  · rcases rlStep_next s t h with rfl | ⟨-, -, hc⟩ | ⟨-, -, rfl⟩
    · exact .inl rfl
    · rcases rlCopyStep_next s t hc with ⟨-, rfl⟩ | ⟨-, b, -, rfl⟩
      · exact .inr (.inl ⟨_, rfl⟩)
      · exact .inl rfl
    · rcases armStep_cases s with ⟨-, ha⟩ | ⟨-, ha⟩ <;> rw [ha]
      · exact .inr (.inl ⟨_, rfl⟩)
      · exact .inl rfl
  · exact .inl (by rw [fsStep_frame s t h])
  · exact .inr (.inr (.inl rfl))
  · exact .inl (by rw [(dbTick_frame s).1])
  · exact .inr (.inr (.inr (.inl ⟨w, rfl, h⟩)))
  · exact .inr (.inr (.inr (.inr rfl)))
  · exact .inl (by rw [h])

/-! ## NV `mode` -/

/-- The action of a state writes NV `mode` only where it enters RESET_REQ or HANDED_OFF (43_mode_controller.md R300). -/
theorem mcAction_mode_writers (q : McState) (s : State) :
    (mcAction q s).nv.mode = s.nv.mode ∨
    ((mcAction q s).mc.state = .resetReq ∧ (q = .launchPersist ∨ q = .exitPersist ∨ q = .factoryReset)) ∨
    ((mcAction q s).mc.state = .handedOff ∧ q = .handoffPersist) := by
  cases q with
  | launchPersist => exact .inr (.inl ⟨rfl, .inl rfl⟩)
  | exitPersist => exact .inr (.inl ⟨rfl, .inr (.inl rfl)⟩)
  | factoryReset => exact .inr (.inl ⟨rfl, .inr (.inr rfl)⟩)
  | handoffPersist => exact .inr (.inr ⟨rfl, rfl⟩)
  | boot => exact .inl (by rw [mcAction, mcBoot_eq]; rfl)
  | setupStage | emuStage =>
    simp only [mcAction, mcSetupStage, mcEmuStage]
    rcases rlInvoke_cases _ s with ⟨-, h⟩ | ⟨-, h⟩ <;> rw [h] <;> exact .inl rfl
  | setupInit =>
    simp only [mcAction, mcSetupInit]
    split
    · split <;> exact .inl rfl
    · exact .inl rfl
  | storageWait =>
    simp only [mcAction, mcStorageWait]
    split
    · exact .inl rfl
    · split <;> exact .inl rfl
  | launchRecord =>
    simp only [mcAction, mcLaunchRecord]
    rcases fsInvoke_cases (BitVec.ofNat 32 s.params.stageOff) s with ⟨-, h⟩ | ⟨-, -, h⟩ | ⟨-, -, h⟩ <;> rw [h] <;>
      split <;> exact .inl rfl
  | launchCheck | launchFlash | delayWait | emuWaitExit =>
    simp only [mcAction, mcLaunchCheck, mcLaunchFlash, mcDelayWait, mcEmuWaitExit]
    split <;> exact .inl rfl
  | setupLoop | handedOff | resetReq | fatal => exact .inl rfl

/-- Settles O40: NV is the Mode Controller's alone, whose states but four keep `mode`. -/
theorem persistedModeWrittenOnlyBeforeReset : Obligations.PersistedModeWrittenOnlyBeforeReset := by
  intro s t h hmode
  have hmc : (nextTurn s).action = .mc := (step_frame h).nv_writers.resolve_left fun hnv => hmode (congrArg Nv.mode hnv)
  rw [step_eq, hmc] at h
  cases h
  refine ⟨hmc, ?_⟩
  rcases busy_or_idle (takeTurn s) with busy | idle
  · exact absurd (congrArg (fun u => u.nv.mode) (mcStep_waits busy)) hmode
  · rw [mcStep_at idle rfl] at hmode ⊢
    exact (mcAction_mode_writers _ (takeTurn s)).resolve_left hmode

/-! ## HANDOFF_PERSIST -/

/-- A word written to CMD is its reserved bits, M and OP side by side (30_encoding.md R143). -/
theorem append_commandFields (w : Word16) : w.extractLsb' 9 7 ++ BitVec.ofBool (w.getLsbD 8) ++ w.extractLsb' 0 8 = w := by
  refine BitVec.eq_of_getLsbD_eq fun i hi => ?_
  simp only [BitVec.getLsbD_append, BitVec.getLsbD_extractLsb', BitVec.getLsbD_ofBool]
  interval_cases i <;> simp

/-- CMD decodes a word only to the command that it encodes (30_encoding.md R143). -/
theorem encode_of_decodeCommand {w : Word16} {i : Instr} (h : decodeCommand w = .instr i) : encode i = w := by
  have fields {op : BitVec 8} {m : Bool} (hr : ¬ReservedCommand w) (hop : (w.extractLsb' 0 8).toNat = op.toNat)
      (hm : w.getLsbD 8 = m) : (0 : BitVec 7) ++ BitVec.ofBool m ++ op = w := by
    have hbits : w.extractLsb' 9 7 = 0 := not_not.1 fun hb => hr (.inl hb)
    rw [← hbits, ← hm, ← BitVec.eq_of_toNat_eq hop]
    exact append_commandFields w
  have plain (hr : ¬ReservedCommand w) (hop : (w.extractLsb' 0 8).toNat ≠ 1) : w.getLsbD 8 = false :=
    Bool.eq_false_iff.2 fun hm => hr (.inr (.inr ⟨hm, hop⟩))
  have hword := commandWord_decodeCommand w
  rw [h] at hword
  cases hword with
  | nop hr op => exact fields (op := 0) hr op (plain hr (by omega))
  | handoff hr op => exact fields (op := 2) hr op (plain hr (by omega))
  | launch hr op =>
    cases hm : w.getLsbD 8
    · exact fields (op := 1) hr op hm
    · exact fields (op := 1) hr op hm

/-- A write to CMD that enters HANDOFF_PERSIST is an accepted handoff (43_mode_controller.md R277, R302). -/
theorem writeCmd_enters_handoffPersist {w : Word16} {s t : State} (h : writeCmd w s = .next t)
    (before : s.mc.state ≠ .handoffPersist) (after : t.mc.state = .handoffPersist) :
    w = 0x0002 ∧ s.mc.state = .setupLoop := by
  have rejected : (rejectCommand s).mc.state = s.mc.state := by
    unfold rejectCommand
    split <;> rfl
  rcases writeCmd_next w s t h with ⟨i, hi, he⟩ | ⟨-, -, rfl⟩
  · have hc := decodeCommand_isCommand hi
    by_cases loop : s.mc.state = .setupLoop
    · cases i with
      | step f | raise f | capture f | drive f => cases hc
      | nop =>
        cases he
        exact absurd after before
      | launch m =>
        cases he
        rw [acceptCommand_accepted loop] at after
        cases after
      | handoff => exact ⟨(encode_of_decodeCommand hi).symm, loop⟩
    · have kept : t.mc.state = s.mc.state := by
        cases i with
        | step f | raise f | capture f | drive f => cases hc
        | nop =>
          cases he
          rfl
        | launch m | handoff =>
          cases he
          rw [acceptCommand_elsewhere loop, rejected]
      exact absurd (kept ▸ after) before
  · exact absurd (rejected ▸ after) before

/-- A control move into HANDOFF_PERSIST starts in SETUP_LOOP (43_mode_controller.md R302). -/
theorem ControlMove.from_setupLoop {s t : State} (h : ControlMove s t) (before : s.mc.state ≠ .handoffPersist)
    (after : t.mc.state = .handoffPersist) : s.mc.state = .setupLoop := by
  cases h with
  | stay => exact absurd after before
  | go idle path =>
    cases after
    generalize s.mc.state = p at path ⊢
    cases path
    rfl
  | @boot o => cases o <;> cases after
  | load invokes =>
    cases after
    generalize s.mc.state = p at invokes
    cases invokes
  | flash => cases after

/-- Settles O42: the Mode Controller takes no step in SETUP_LOOP, so the entry is a command's. -/
theorem handoffOnlyFromSetupLoop : Obligations.HandoffOnlyFromSetupLoop := by
  intro s t h before after
  rw [step_eq] at h
  rcases runAction_mc_writers h with hmc | ⟨e, hmc⟩ | rfl | ⟨w, ha, hw⟩ | ha
  · exact absurd ((congrArg ModeRegs.state hmc).symm.trans after) before
  · exact absurd ((congrArg ModeRegs.state hmc).symm.trans after) nofun
  · have loop := (controlMove_of_mcStep (takeTurn s)).from_setupLoop before after
    rw [(modeControllerStandsStill (takeTurn s) (.inr (.inr (.inl loop)))).1] at after
    exact absurd after before
  · obtain ⟨rfl, loop⟩ := writeCmd_enters_handoffPersist hw before after
    exact ⟨ha, loop⟩
  · rw [ha] at h
    cases h
    cases after

/-! ## FATAL and the ends of a run -/

/-- Every action but a device reset leaves the machine in FATAL (43_mode_controller.md R299). -/
theorem runAction_keeps_fatal {a : Action} {s t : State} (h : runAction a s = .next t) (hr : a ≠ .deviceReset)
    (hfatal : s.mc.state = .fatal ∧ s.mc.fatalF = true) : t.mc.state = .fatal ∧ t.mc.fatalF = true := by
  have at_fatal := hfatal.1
  rcases runAction_mc_writers h with hmc | ⟨e, hmc⟩ | rfl | ⟨w, -, hw⟩ | ha
  · rwa [hmc]
  · rw [hmc]
    exact ⟨rfl, rfl⟩
  · rwa [(modeControllerStandsStill s (by simp [at_fatal])).1]
  · rw [writeCmd_ignored (by rw [at_fatal]; rfl)] at hw
    cases hw
    exact hfatal
  · exact absurd ha hr

/-- Along a run, up to and with the state its last step leaves, the invariant holds. -/
theorem EndedRun.machineInv {r : Nat → State} {n : Nat} {e : RunEnd} (h : EndedRun r n e) {i : Nat} (hi : i ≤ n + 1) :
    MachineInv (r i) :=
  holds_along (P := MachineInv) (m := 0) (n := n + 1) (machineInv_of_afterReset h.start)
    (fun j _ hj hinv => invariantKeptByEveryStep _ _ hinv (h.steps j (Nat.le_of_lt_succ hj))) i (Nat.zero_le i) hi

/-- What the output signals say of the state in which a run is over (43_mode_controller.md R297). -/
theorem EndedRun.signals {r : Nat → State} {n : Nat} {e : RunEnd} (h : EndedRun r n e) :
    (runObservation r n e).fatalF = false ∧
    ((runObservation r n e).handoff = true ↔ (lastState r n e).mc.state = .handedOff) ∧
    ((runObservation r n e).resetRequested = true ↔ (lastState r n e).mc.state = .resetReq) := by
  have hi : McInv (lastState r n e) := by
    cases e with
    | handedOff | faulted => exact (h.machineInv le_rfl).mc
    | resetRequested | interrupted => exact (h.machineInv (Nat.le_succ n)).mc
  refine ⟨hi.noFatal.1, ?_, ?_⟩
  · rw [runObservation, observe_handoff, hi.handoff, beq_iff_eq]
  · rw [runObservation, observe_resetRequested, hi.resetReq, beq_iff_eq]

/-- Settles O44: FATAL is kept, and no state of a run is in it, since the invariant holds along the run. -/
theorem fatalLeftOnlyByReset : Obligations.FatalLeftOnlyByReset := by
  refine ⟨fun s t at_fatal signal h => ?_, fun r n e h => ?_⟩
  · by_cases hr : (nextTurn s).action = .deviceReset
    · exact .inr hr
    · exact .inl (runAction_keeps_fatal (s := takeTurn s) h hr ⟨at_fatal, signal⟩)
  · obtain ⟨hfatal, hhandoff, hreset⟩ := h.signals
    rw [hhandoff, hreset]
    obtain ⟨live, -⟩ := runEnd_before h.ends
    rcases runEnd_cases h.ends with ⟨rfl, -, hs⟩ | ⟨rfl, -, hs⟩ | ⟨rfl, -, ht⟩ | ⟨rfl, -, ht⟩
    · exact ⟨nofun, hfatal, by simp [lastState, hs], by simp [lastState, hs]⟩
    · exact ⟨nofun, hfatal, by simp [lastState, live], by simp [lastState, hs]⟩
    · exact ⟨nofun, hfatal, by simp [lastState, ht], by simp [lastState, ht]⟩
    · exact absurd ht (h.machineInv le_rfl).mc.noFatal.2

end Sys2Proof.Machine
end

section
/-! The boot of a chip with no persisted mode (spec/43_mode_controller.md R303): BOOT, SETUP_STAGE, the load with its ARM step, and SETUP_INIT,
each a queued turn that leads to the next stage. -/

namespace Sys2Proof.Machine

open Sys2Proof

/-! ## The stages of the boot -/

/-- No action touches STORAGE and the parameters, and so the launch premises (10_state.md R68). -/
theorem ActionFrame.premises_kept {a : Action} {s t : State} (h : ActionFrame a s t) : premises t = premises s := by
  obtain ⟨-, -, hparams⟩ := h.stores_kept
  refine premises_congr hparams ?_
  cases h with
  | seq rest | rl rest | fs rest | mc rest | other rest => rw [rest]
  | deviceReset => rfl

/-- A stage of a boot with parameters p: the Mode Controller is in state q, the actions as are queued, and storage is present at each. -/
structure BootStage (p : Params) (q : McState) (as : List Action) (s : State) : Prop where
  inv     : MachineInv s
  prem    : premises s = true
  params  : s.params = p
  state   : s.mc.state = q
  queue   : s.turns.map (fun u => u.action) = as
  present : ∀ u ∈ s.turns, u.draw.present = true

/-- A queued action is the next step, with storage present, and leads to the stage of what it leaves. -/
theorem BootStage.next {p : Params} {q : McState} {a : Action} {as : List Action} {s : State} (hs : BootStage p q (a :: as) s) :
    (takeTurn s).draw.present = true ∧
      ∀ t, runAction a (takeTurn s) = .next t → step s = .next t ∧ BootStage p t.mc.state as t := by
  obtain ⟨hnext, hrest⟩ := nextTurn_of_queue hs.queue
  obtain ⟨u, us, hturns, -, -⟩ := List.map_eq_cons_iff.1 hs.queue
  have hpresent := hs.present
  rw [hturns, List.forall_mem_cons] at hpresent
  refine ⟨?_, fun t hrun => ?_⟩
  · rw [takeTurn_draw, nextTurn_cons s u us hturns]
    exact hpresent.1
  · have hstep : step s = .next t := by rw [step_eq, hnext, hrun]
    have hf := runAction_frame hrun
    obtain ⟨-, -, hparams⟩ := hf.stores_kept
    have hqueue : t.turns = us := by rw [hf.turns_kept, takeTurn_turns, hturns, List.tail_cons]
    refine ⟨hstep, invariantKeptByEveryStep s t hs.inv hstep, hf.premises_kept.trans hs.prem, hparams.trans hs.params, rfl,
      ?_, by rw [hqueue]; exact hpresent.2⟩
    rw [hf.turns_kept, hrest]

/-- Where neither RL nor FS runs, a queued turn of the Mode Controller is the action of its state. -/
theorem BootStage.next_mc {p : Params} {q : McState} {as : List Action} {s : State} (hs : BootStage p q (.mc :: as) s)
    (idle : firmwareIdle s) :
    step s = .next (mcAction q (takeTurn s)) ∧ BootStage p (mcAction q (takeTurn s)).mc.state as (mcAction q (takeTurn s)) := by
  refine hs.next.2 _ ?_
  rw [runAction, mcStep_at (s := takeTurn s) idle hs.state]

/-! ## BOOT and SETUP_STAGE -/

/-- With no persisted mode BOOT leads to SETUP_STAGE (43_mode_controller.md R266). -/
theorem BootStage.boot_leads {p : Params} {as : List Action} :
    Leads 1 (fun s => BootStage p .boot (.mc :: as) s ∧ s.nv.mode = none) (BootStage p .setupStage as) := by
  refine .one fun s ⟨hs, hnv⟩ => ?_
  have idle := hs.inv.mc.idle_of_state (by rw [hs.state]; rfl) (by rw [hs.state]; decide)
  obtain ⟨hstep, hstage⟩ := hs.next_mc idle
  have hq : (mcAction .boot (takeTurn s)).mc.state = .setupStage := by
    have hmode : decodeMode (takeTurn s).nv.mode = .setup := congrArg decodeMode hnv
    rw [mcAction, mcBoot_eq, hmode]
    rfl
  exact ⟨_, hstep, hq ▸ hstage⟩

/-- The load of the boot runs with n bytes to go. -/
structure BootLoad (p : Params) (n : Nat) (as : List Action) (s : State) : Prop where
  stage : BootStage p .setupInit as s
  busy  : s.rl.busy = true
  toGo  : s.rl.idx.toNat + n = s.rl.len.toNat

/-- SETUP_STAGE starts the load of the communication firmware (43_mode_controller.md R268). -/
theorem BootStage.stage_leads {p : Params} {as : List Action} :
    Leads 1 (BootStage p .setupStage (.mc :: as)) (BootLoad p p.commImage.length as) := by
  refine .one fun s hs => ?_
  have idle := hs.inv.mc.idle_of_state (by rw [hs.state]; rfl) (by rw [hs.state]; decide)
  obtain ⟨hstep, hstage⟩ := hs.next_mc idle
  have hlen := Params.wf_loadLength (premises_wf hs.prem) .comm
  have hrl : (mcAction .setupStage (takeTurn s)).rl = ⟨true, .comm, 0, BitVec.ofNat 17 p.commImage.length⟩ := by
    rw [mcAction, mcSetupStage, rlInvoke_idle (s := takeTurn s) idle.1, ← hs.params]
    rfl
  refine ⟨_, hstep, hstage, by rw [hrl], ?_⟩
  rw [hs.params] at hlen
  rw [hrl]
  exact (Nat.zero_add _).trans (Nat.mod_eq_of_lt (show p.commImage.length < 2 ^ 17 from hlen.trans_lt (by decide))).symm

/-! ## The load -/

/-- A load of the boot runs into the disarmed pair, over the image's length (42_staging.md R221, R230). -/
theorem BootLoad.loading {p : Params} {n : Nat} {as : List Action} {s : State} (h : BootLoad p n as s) :
    Loading (takeTurn s) := by
  have hs := h.stage
  exact ⟨premises_wf hs.prem, h.busy, (hs.inv.mc.rlBusy h.busy).1, ((hs.inv.load hs.prem).bounds (.inl h.busy)).1⟩

/-- The rest of the load and its ARM step (42_staging.md R224, R228). -/
theorem BootLoad.load_leads {p : Params} {n : Nat} {as : List Action} :
    Leads (n + 1) (BootLoad p n (List.replicate (n + 1) .rl ++ as))
      (fun t => BootStage p .setupInit as t ∧ t.rl.busy = false) := by
  induction n with
  | zero =>
    refine .one fun s h => ?_
    obtain ⟨-, hnext⟩ := h.stage.next
    have hrun := armStepArmsThePair (takeTurn s) h.busy (BitVec.eq_of_toNat_eq h.toGo) h.loading.disarmed
    obtain ⟨hstep, hstage⟩ := hnext _ hrun
    exact ⟨_, hstep, h.stage.state ▸ hstage, rfl⟩
  | succ n ih =>
    have copy : Leads 1 (BootLoad p (n + 1) (List.replicate (n + 2) .rl ++ as))
        (BootLoad p n (List.replicate (n + 1) .rl ++ as)) := by
      refine .one fun s h => ?_
      have more : (takeTurn s).rl.idx.toNat < (takeTurn s).rl.len.toNat := Nat.lt_of_lt_of_eq (by simp) h.toGo
      obtain ⟨-, hnext⟩ := h.stage.next
      obtain ⟨hstep, hstage⟩ := hnext _ (h.loading.rlStep_copies more)
      refine ⟨_, hstep, h.stage.state ▸ hstage, h.busy, ?_⟩
      rw [h.loading.idx_byteCopied more]
      exact (Nat.succ_add_eq_add_succ _ n).trans h.toGo
    have both := copy.trans ih
    rwa [Nat.add_comm 1 (n + 1)] at both

/-! ## SETUP_INIT -/

/-- With storage present SETUP_INIT leads to SETUP_LOOP, whatever the network answers (43_mode_controller.md R269, R270). -/
theorem BootStage.init_leads {p : Params} {as : List Action} :
    Leads 1 (fun s => BootStage p .setupInit (.mc :: as) s ∧ s.rl.busy = false)
      (fun t => BootStage p .setupLoop as t ∧ t.mc.storageOk = true) := by
  refine .one fun s ⟨hs, hrl⟩ => ?_
  have hfs : s.fs.busy = false := Bool.eq_false_iff.2 fun hb => by
    have hq := hs.inv.mc.fsBusy hb
    rw [hs.state] at hq
    cases hq
  obtain ⟨hstep, hstage⟩ := hs.next_mc ⟨hrl, hfs⟩
  have hq : (mcAction .setupInit (takeTurn s)).mc.state = .setupLoop ∧
      (mcAction .setupInit (takeTurn s)).mc.storageOk = true := by
    rw [mcAction, mcSetupInit, if_pos hs.next.1]
    dsimp only
    split <;> exact ⟨rfl, rfl⟩
  exact ⟨_, hstep, hq.1 ▸ hstage, hq.2⟩

/-- What the invariant says of SETUP_LOOP: MODE is SETUP, and the armed pair serves the communication image (42_staging.md R224, R230). -/
theorem BootStage.serves_commImage {p : Params} {as : List Action} {s : State} (hs : BootStage p .setupLoop as s) :
    s.mc.mode = .setup ∧ s.bus.armed = true ∧
      ∀ i, i < p.commImage.length → ramByte s (p.ramWinBase.toNat + i) = p.commImage.getD i 0 := by
  have hmode : s.mc.mode = .setup := hs.inv.mc.setupMode (by rw [hs.state]; rfl)
  have harmed : s.bus.armed = true := hs.inv.mc.after (by rw [hs.state]; rfl)
  have hload := hs.inv.load hs.prem
  have hsrc : s.rl.src = .comm := by
    have hrom := hload.source (.inr harmed)
    cases h : s.rl.src with
    | comm => rfl
    | rom => exact absurd hmode (hrom.1 h)
  have hidx : s.rl.idx.toNat = p.commImage.length := by
    rw [hload.whole harmed, (hload.bounds (.inr harmed)).1, hsrc, hs.params]
    rfl
  refine ⟨hmode, harmed, fun i hi => ?_⟩
  rw [← hs.params, hload.copied (.inr harmed) i (by omega), imageByte, hsrc]

/-- Settles O59: the stages of the boot, one after the other. -/
theorem bootWithNoModeReachesTheLoop : Obligations.BootWithNoModeReachesTheLoop := by
  intro p d file files turns hwf hfiles hqueue hpresent
  have hinit : BootStage p .boot
      (.mc :: .mc :: (List.replicate (p.commImage.length + 1) .rl ++ [.mc]))
      { State.launch p d ⟨none, file⟩ files with turns := turns } :=
    ⟨machineInv_of_afterReset rfl, Bool.and_eq_true_iff.2 ⟨hwf, hfiles⟩, rfl, rfl, hqueue, hpresent⟩
  obtain ⟨t, hrun, hs, hstorage⟩ := (BootStage.boot_leads.trans (BootStage.stage_leads.trans
    (BootLoad.load_leads.trans BootStage.init_leads))) _ ⟨hinit, rfl⟩
  obtain ⟨hmode, harmed, himage⟩ := hs.serves_commImage
  have hlength : turns.length = 1 + (1 + (p.commImage.length + 1 + 1)) := by
    rw [← List.length_map (f := fun u : Turn => u.action), hqueue]
    simp only [List.length_append, List.length_cons, List.length_nil, List.length_replicate]
    omega
  exact ⟨t, by rw [hlength, hrun], hs.state, hmode, harmed, hstorage, himage⟩

end Sys2Proof.Machine
end

section
/-! The debouncer over a run of poll ticks (spec/44_button_debouncer.md R312 to R315): what one tick does with the sample it reads, how far a
run that reads against STABLE has come, for how many ticks a press has been held, and the statements about a bounce and about a press. -/

namespace Sys2Proof.Machine

open Sys2Proof

variable {s t u : State} {p : Params} {b r : Bool} {c d n : Nat} {e : Event}

/-! ## A tick that reads a given sample -/

/-- The level of the button line that reads as the raw sample r (R311). -/
def sampleLevel (p : Params) (r : Bool) : Level := if r then p.btnPolarity.asserted else p.btnPolarity.asserted.flip

/-- A poll tick before which the operator sets the line to read r. -/
def sampleTick (r : Bool) (s : State) : State := dbTick (setButton (sampleLevel s.params r) s)

theorem ticks_cons (r : Bool) (rs : List Bool) (s : State) : ticks (r :: rs) s = ticks rs (sampleTick r s) := rfl

theorem ticks_append (rs qs : List Bool) (s : State) : ticks (rs ++ qs) s = ticks qs (ticks rs s) := by
  induction rs generalizing s with
  | nil => rfl
  | cons r rs ih => exact ih (sampleTick r s)

/-- A run of equal samples ends in a tick that reads the same. -/
theorem ticks_replicate_succ (n : Nat) (r : Bool) (s : State) :
    ticks (List.replicate (n + 1) r) s = sampleTick r (ticks (List.replicate n r) s) := by
  rw [List.replicate_succ', ticks_append]
  rfl

theorem rawButton_setButton (r : Bool) (s : State) : rawButton (setButton (sampleLevel s.params r) s) = r := by
  simp only [rawButton, setButton_out, setButton_rest, sampleLevel]
  cases r <;> cases s.params.btnPolarity <;> rfl

/-- A tick whose sample equals STABLE clears CNT (R312, R313). -/
theorem sampleTick_agree (h : s.db.stable = r) :
    (sampleTick r s).db = { s.db with cnt := 0, holdc := BitVec.ofNat 16 (heldTicks s) } := by
  have hraw : rawButton (setButton (sampleLevel s.params r) s) = (setButton (sampleLevel s.params r) s).db.stable :=
    (rawButton_setButton r s).trans h.symm
  rw [sampleTick, dbTick, if_pos hraw]
  rfl

/-- A differing tick before the last counts (R312). -/
theorem sampleTick_differ (h : s.db.stable ≠ r) (hc : s.db.cnt.toNat + 1 < s.params.debounceTicks) :
    (sampleTick r s).db = { s.db with cnt := s.db.cnt + 1, holdc := BitVec.ofNat 16 (heldTicks s) } := by
  have hraw : rawButton (setButton (sampleLevel s.params r) s) ≠ (setButton (sampleLevel s.params r) s).db.stable := by
    rw [rawButton_setButton]; exact h.symm
  rw [sampleTick, dbTick, if_neg hraw]
  exact congrArg State.db (if_pos hc)

/-- The last of DEBOUNCE_TICKS differing ticks is an edge (R314, R315). -/
theorem sampleTick_edge (h : s.db.stable ≠ r) (hc : s.params.debounceTicks ≤ s.db.cnt.toNat + 1) :
    (sampleTick r s).db =
      if r then { s.db with cnt := 0, stable := true, holdc := 0 }
      else { s.db with
        cnt := 0, stable := false, holdc := BitVec.ofNat 16 (heldTicks s), evt := classify s.params (heldTicks s) } := by
  have hraw : rawButton (setButton (sampleLevel s.params r) s) ≠ (setButton (sampleLevel s.params r) s).db.stable := by
    rw [rawButton_setButton]; exact h.symm
  rw [sampleTick, dbTick, if_neg hraw, rawButton_setButton]
  refine (congrArg State.db (if_neg (Nat.not_lt.2 hc))).trans ?_
  cases r <;> rfl

/-! ## What a run of ticks leaves alone -/

/-- Only the debouncer's registers, LP_EN not among them, and the button wire differ (R319). -/
def TickFrame (s t : State) : Prop :=
  ∃ db l, t = { s with db := db, out := { s.out with button := l } } ∧ db.lpEn = s.db.lpEn

theorem TickFrame.refl (s : State) : TickFrame s s := ⟨s.db, s.out.button, rfl, rfl⟩

theorem TickFrame.trans (h : TickFrame s t) (h' : TickFrame t u) : TickFrame s u := by
  obtain ⟨_, _, rfl, hlp⟩ := h
  obtain ⟨db, l, rfl, hlp'⟩ := h'
  exact ⟨db, l, rfl, hlp'.trans hlp⟩

theorem TickFrame.params (h : TickFrame s t) : t.params = s.params := by
  obtain ⟨_, _, rfl, _⟩ := h
  rfl

theorem TickFrame.lpEn (h : TickFrame s t) : t.db.lpEn = s.db.lpEn := by
  obtain ⟨_, _, rfl, hlp⟩ := h
  exact hlp

theorem TickFrame.eq (h : TickFrame s t) : t = { s with db := t.db, out := { s.out with button := t.out.button } } := by
  obtain ⟨_, _, rfl, _⟩ := h
  rfl

theorem sampleTick_frame (r : Bool) (s : State) : TickFrame s (sampleTick r s) :=
  have ⟨hrest, hlp⟩ := dbTick_frame (setButton (sampleLevel s.params r) s)
  ⟨_, _, hrest, hlp⟩

theorem ticks_frame (rs : List Bool) (s : State) : TickFrame s (ticks rs s) := by
  induction rs generalizing s with
  | nil => exact .refl s
  | cons r rs ih => exact (sampleTick_frame r s).trans (ih _)

/-! ## A run that reads against STABLE -/

/-- The parameters are p, STABLE is b, the last c ticks read against it, and EVT is e. -/
structure Counting (p : Params) (b : Bool) (c : Nat) (e : Event) (s : State) : Prop where
  params : s.params = p
  stable : s.db.stable = b
  cnt    : s.db.cnt.toNat = c
  evt    : s.db.evt = e

/-- DEBOUNCE_TICKS is positive and CNT can count up to it (R10, 10_state.md R55). -/
theorem Params.wf_debounceTicks (h : p.wf = true) : 1 ≤ p.debounceTicks ∧ p.debounceTicks ≤ 256 := by
  simp only [Params.wf, Bool.and_eq_true, decide_eq_true_eq] at h
  omega

theorem Counting.after_agree (h : Counting p b c e s) : Counting p b 0 e (sampleTick b s) := by
  have hdb := sampleTick_agree h.stable
  exact ⟨(sampleTick_frame b s).params.trans h.params, hdb ▸ h.stable, hdb ▸ rfl, hdb ▸ h.evt⟩

theorem Counting.after_differ (hp : p.wf = true) (h : Counting p b c e s) (hr : b ≠ r) (hc : c + 1 < p.debounceTicks) :
    Counting p b (c + 1) e (sampleTick r s) := by
  obtain ⟨rfl, rfl, rfl, rfl⟩ := h
  have hdb := sampleTick_differ hr hc
  have hmax := (Params.wf_debounceTicks hp).2
  have hcnt : (s.db.cnt + 1).toNat = s.db.cnt.toNat + 1 := by bv_omega
  exact ⟨(sampleTick_frame r s).params, hdb ▸ rfl, hdb ▸ hcnt, hdb ▸ rfl⟩

/-- Ticks that read STABLE keep it. -/
theorem Counting.after_agreeing_run (h : Counting p b 0 e s) (k : Nat) :
    Counting p b 0 e (ticks (List.replicate k b) s) := by
  induction k with
  | zero => exact h
  | succ k ih => rw [ticks_replicate_succ]; exact ih.after_agree

/-- Fewer than DEBOUNCE_TICKS differing ticks are only counted (R313). -/
theorem Counting.after_differing_run (hp : p.wf = true) (h : Counting p b 0 e s) (hr : b ≠ r) (k : Nat)
    (hk : k < p.debounceTicks) : Counting p b k e (ticks (List.replicate k r) s) := by
  induction k with
  | zero => exact h
  | succ k ih => rw [ticks_replicate_succ]; exact (ih (by omega)).after_differ hp hr hk

/-- Settles O50: the differing run is only counted, and the tick that agrees clears the count. -/
theorem shortBounceIsFiltered : Obligations.ShortBounceIsFiltered := by
  intro s k hp hcnt hk
  have start : Counting s.params s.db.stable 0 s.db.evt s := ⟨rfl, rfl, by rw [hcnt]; rfl, rfl⟩
  have last := (start.after_differing_run hp (Bool.not_ne_self _).symm k hk).after_agree
  have frame := ticks_frame (List.replicate k (!s.db.stable) ++ [s.db.stable]) s
  refine ⟨_, rfl, ?_, ?_, ?_, frame.lpEn, frame.eq⟩ <;> rw [ticks_append]
  · exact last.stable
  · exact BitVec.eq_of_toNat_eq last.cnt
  · exact last.evt

/-! ## A press and its held ticks -/

/-- HOLDC counts d held ticks, saturated at LONG_TICKS (R314). -/
def HeldFor (d : Nat) (s : State) : Prop := s.db.holdc.toNat = min d s.params.longTicks

/-- HOLDC can count up to LONG_TICKS (R10, 10_state.md R55). -/
theorem Params.wf_longTicks (h : p.wf = true) : p.longTicks < 2 ^ 16 := by
  simp only [Params.wf, Bool.and_eq_true, decide_eq_true_eq] at h
  omega

/-- The tick counts itself among the held ticks (R312). -/
theorem HeldFor.heldTicks_eq (h : HeldFor d s) (hs : s.db.stable = true) : heldTicks s = min (d + 1) s.params.longTicks := by
  rw [heldTicks, if_pos hs, saturate, h]
  omega

/-- The saturated count fits HOLDC. -/
theorem HeldFor.toNat_heldTicks (h : HeldFor d s) (hp : s.params.wf = true) (hs : s.db.stable = true) :
    (BitVec.ofNat 16 (heldTicks s)).toNat = min (d + 1) s.params.longTicks := by
  have hmax := Params.wf_longTicks hp
  rw [h.heldTicks_eq hs, BitVec.toNat_ofNat, Nat.mod_eq_of_lt (by omega)]

/-- The event by the saturated count is the event by the held ticks themselves (R315). -/
theorem classify_min (p : Params) (d : Nat) : classify p (min d p.longTicks) = if d < p.longTicks then .short else .long := by
  have hiff : min d p.longTicks < p.longTicks ↔ d < p.longTicks := by omega
  simp only [classify, hiff]

/-- A tick of a press that is not its release edge is one more held tick (R314), whatever it reads. -/
theorem HeldFor.after_tick (h : HeldFor d s) (hp : s.params.wf = true) (hs : s.db.stable = true)
    (ht : (sampleTick r s).db.stable = true) : HeldFor (d + 1) (sampleTick r s) := by
  have hheld := h.toNat_heldTicks hp hs
  rw [HeldFor, (sampleTick_frame r s).params]
  by_cases hr : s.db.stable = r
  · rw [sampleTick_agree hr]; exact hheld
  · by_cases hc : s.db.cnt.toNat + 1 < s.params.debounceTicks
    · rw [sampleTick_differ hr hc]; exact hheld
    · have hfalse : r = false := by cases r <;> simp_all
      rw [sampleTick_edge hr (Nat.le_of_not_lt hc), hfalse] at ht
      cases ht

/-- A run of equal samples during which STABLE stays 1 adds its length to the held ticks. -/
theorem HeldFor.after_run (h : HeldFor d s) (hp : s.params.wf = true) (k : Nat)
    (hs : ∀ i ≤ k, (ticks (List.replicate i r) s).db.stable = true) : HeldFor (d + k) (ticks (List.replicate k r) s) := by
  induction k with
  | zero => exact h
  | succ k ih =>
    have hpressed := hs (k + 1) le_rfl
    rw [ticks_replicate_succ] at hpressed ⊢
    have hparams := (ticks_frame (List.replicate k r) s).params
    exact (ih fun i hi => hs i (by omega)).after_tick (by rwa [hparams]) (hs k (by omega)) hpressed

/-- The press edge starts the count of held ticks (R314). -/
theorem Counting.after_pressEdge (h : Counting p false c e s) (hc : p.debounceTicks ≤ c + 1) :
    Counting p true 0 e (sampleTick true s) ∧ HeldFor 0 (sampleTick true s) := by
  obtain ⟨rfl, hs, rfl, rfl⟩ := h
  have hdb := sampleTick_edge (r := true) (by simp [hs]) hc
  refine ⟨⟨(sampleTick_frame true s).params, hdb ▸ rfl, hdb ▸ rfl, hdb ▸ rfl⟩, ?_⟩
  rw [HeldFor, hdb, Nat.zero_min]
  rfl

/-- The release edge is a held tick too, and classifies the press (R315). -/
theorem Counting.after_releaseEdge (hp : p.wf = true) (h : Counting p true c e s) (held : HeldFor d s)
    (hc : p.debounceTicks ≤ c + 1) :
    Counting p false 0 (if d + 1 < p.longTicks then .short else .long) (sampleTick false s) ∧
      HeldFor (d + 1) (sampleTick false s) := by
  obtain ⟨rfl, hs, rfl, rfl⟩ := h
  have hdb := sampleTick_edge (r := false) (by simp [hs]) hc
  have hparams := (sampleTick_frame false s).params
  refine ⟨⟨hparams, hdb ▸ rfl, hdb ▸ rfl, ?_⟩, ?_⟩
  · rw [← classify_min, ← held.heldTicks_eq hs, hdb]
    rfl
  · rw [HeldFor, hdb, hparams]
    exact held.toNat_heldTicks hp hs

/-- DEBOUNCE_TICKS pressed ticks end in the press edge. -/
theorem Counting.after_press (hp : p.wf = true) (h : Counting p false 0 e s) :
    Counting p true 0 e (ticks (List.replicate p.debounceTicks true) s) ∧
      HeldFor 0 (ticks (List.replicate p.debounceTicks true) s) := by
  obtain ⟨m, hm⟩ := Nat.exists_eq_add_of_le' (Params.wf_debounceTicks hp).1
  rw [hm, ticks_replicate_succ]
  exact (h.after_differing_run hp (by decide) m (by omega)).after_pressEdge hm.le

/-- DEBOUNCE_TICKS released ticks are all held ticks and end in the release edge. -/
theorem Counting.after_release (hp : p.wf = true) (h : Counting p true 0 e s) (held : HeldFor n s) :
    Counting p false 0 (if n + p.debounceTicks < p.longTicks then .short else .long)
        (ticks (List.replicate p.debounceTicks false) s) ∧
      HeldFor (n + p.debounceTicks) (ticks (List.replicate p.debounceTicks false) s) := by
  obtain ⟨m, hm⟩ := Nat.exists_eq_add_of_le' (Params.wf_debounceTicks hp).1
  have hrun (i : Nat) (hi : i ≤ m) := h.after_differing_run (r := false) hp (by decide) i (by omega)
  have hheld := held.after_run (h.params ▸ hp) m fun i hi => (hrun i hi).stable
  rw [hm, ticks_replicate_succ]
  exact (hrun m le_rfl).after_releaseEdge hp hheld hm.le

/-- Settles O51: the press edge after DEBOUNCE_TICKS pressed ticks, n more of them, then the release edge after DEBOUNCE_TICKS
released ticks. -/
theorem pressClassifiedByHeldTicks : Obligations.PressClassifiedByHeldTicks := by
  rintro s n hp hstable hcnt _ rfl
  have start : Counting s.params false 0 s.db.evt s := ⟨rfl, hstable, by rw [hcnt]; rfl, rfl⟩
  obtain ⟨pressed, held⟩ := start.after_press hp
  have hheld := held.after_run (by rwa [pressed.params]) n fun i _ => (pressed.after_agreeing_run i).stable
  rw [Nat.zero_add] at hheld
  obtain ⟨released, hholdc⟩ := (pressed.after_agreeing_run n).after_release hp hheld
  rw [HeldFor, released.params] at hholdc
  have frame := ticks_frame (List.replicate (s.params.debounceTicks + n) true ++ List.replicate s.params.debounceTicks false) s
  refine ⟨_, rfl, ?_, ?_, ?_, ?_, frame.lpEn, frame.eq⟩ <;> rw [List.replicate_add, ticks_append, ticks_append]
  · exact released.stable
  · exact BitVec.eq_of_toNat_eq released.cnt
  · exact hholdc
  · exact released.evt

end Sys2Proof.Machine
end
